-- ==== Sys2Proof/Word.lean ====
section
/-! DEFINITION. Word.lean: the bit vectors the spec moves (00_scope.md R6, 30_encoding.md R50, R58). -/

namespace Sys2Proof

/-- A byte of the stream: 8 bits, unsigned (R6). -/
abbrev Byte := BitVec 8

/-- A payload type code: 16 bits (R50, R55). -/
abbrev TypeCode := BitVec 16

/-- A payload length: 32 bits, unsigned (R56). -/
abbrev PayloadLen := BitVec 32

/-- The header word `W` of an 8-byte header: `b[0]` is `W[63:56]`, `b[7]` is `W[7:0]` (R6, R50). -/
abbrev HeaderWord := BitVec 64

/-- The operation select code of the `OP` port: 4 bits (R58). -/
abbrev Select := BitVec 4

end Sys2Proof
end

