-- ==== Sys2Proof/Syntax.lean ====
section
/-! DEFINITION. Syntax.lean: routes, headers, payload values, and the instructions of the block: nine host operations
(format CMD4, R58) and sixteen frame kinds (format HDR64, R55), one constructor per row of spec/opcode_table.json. -/

namespace Sys2Proof

/-- A route `k` in 0..15, the index of a payload port `PP[k]`, as an enumeration of the 16 payload types (R90 allows the
names in place of the numbers). The numbers are `Route.index` in Decode.lean. -/
inductive Route where
  | genericNack
  | vehicleIdentificationRequest
  | vehicleIdentificationRequestEid
  | vehicleIdentificationRequestVin
  | vehicleAnnouncementMessage
  | routingActivationRequest
  | routingActivationResponse
  | aliveCheckRequest
  | aliveCheckResponse
  | entityStatusRequest
  | entityStatusResponse
  | powerInformationRequest
  | powerInformationResponse
  | diagnosticMessage
  | diagnosticMessageAck
  | diagnosticMessageNack
  deriving DecidableEq, Repr

/-- A header record of raw field values, valid or not (R7, R50, R79). -/
structure Header where
  ver  : Byte
  inv  : Byte
  type : TypeCode
  len  : PayloadLen
  deriving DecidableEq, Repr

/-- A payload value: "a tagged union over 16 variants" (91_not_in_source.md N24), with the fields of R145 to R161 in the
order the table lists them. A coded field is held as its raw code byte, an opaque field as its bytes in wire order (R141).
DESIGN CHOICE (log entry 5): the spec fixes no representation of the value. -/
inductive Payload where
  | genericNack (nackCode : Byte)
  | vehicleIdentificationRequest
  | vehicleIdentificationRequestEid (eid : List Byte)
  | vehicleIdentificationRequestVin (vin : List Byte)
  | vehicleAnnouncementMessage (vin logicalAddress eid gid : List Byte) (actionCode : Byte) (syncStatus : Option Byte)
  | routingActivationRequest (sourceAddress : List Byte) (activationType : Byte) (reservedBuffer : List Byte)
  | routingActivationResponse (firstAddress secondAddress : List Byte) (activationCode : Byte) (reservedBuffer : List Byte)
  | aliveCheckRequest
  | aliveCheckResponse (sourceAddress : List Byte)
  | entityStatusRequest
  | entityStatusResponse (nodeType second third : Byte) (lastFour : List Byte)
  | powerInformationRequest
  | powerInformationResponse (powerMode : Byte)
  | diagnosticMessage (firstAddress secondAddress body : List Byte)
  | diagnosticMessageAck (firstAddress secondAddress : List Byte) (ackCode : Byte)
  | diagnosticMessageNack (firstAddress secondAddress : List Byte) (nackCode : Byte)
  deriving DecidableEq, Repr

/-- The tag a payload value carries: the route of the codec that can encode it (R96). -/
def Payload.route : Payload → Route
  | .genericNack _ => .genericNack
  | .vehicleIdentificationRequest => .vehicleIdentificationRequest
  | .vehicleIdentificationRequestEid _ => .vehicleIdentificationRequestEid
  | .vehicleIdentificationRequestVin _ => .vehicleIdentificationRequestVin
  | .vehicleAnnouncementMessage _ _ _ _ _ _ => .vehicleAnnouncementMessage
  | .routingActivationRequest _ _ _ => .routingActivationRequest
  | .routingActivationResponse _ _ _ _ => .routingActivationResponse
  | .aliveCheckRequest => .aliveCheckRequest
  | .aliveCheckResponse _ => .aliveCheckResponse
  | .entityStatusRequest => .entityStatusRequest
  | .entityStatusResponse _ _ _ _ => .entityStatusResponse
  | .powerInformationRequest => .powerInformationRequest
  | .powerInformationResponse _ => .powerInformationResponse
  | .diagnosticMessage _ _ _ => .diagnosticMessage
  | .diagnosticMessageAck _ _ _ => .diagnosticMessageAck
  | .diagnosticMessageNack _ _ _ => .diagnosticMessageNack

/-- The instructions. The first nine are the operations a host selects on `OP` (R58). The other sixteen are the frame
kinds: each stands for the header at the head of the frame buffer, whose type code is the row's; the type code is the
constructor, the other three fields of R50 are its operands. -/
inductive Instr where
  | rst
  | push (b : Byte)
  | dec
  | skip (n : Nat)
  | hunpk (s : List Byte)
  | hpk (h : Header)
  | dsp (t : TypeCode)
  | dspinv (k : Route)
  | enc (h : Header) (kp : Route) (v : Payload)
  | genericNack (ver inv : Byte) (len : PayloadLen)
  | vehicleIdentificationRequest (ver inv : Byte) (len : PayloadLen)
  | vehicleIdentificationRequestEid (ver inv : Byte) (len : PayloadLen)
  | vehicleIdentificationRequestVin (ver inv : Byte) (len : PayloadLen)
  | vehicleAnnouncementMessage (ver inv : Byte) (len : PayloadLen)
  | routingActivationRequest (ver inv : Byte) (len : PayloadLen)
  | routingActivationResponse (ver inv : Byte) (len : PayloadLen)
  | aliveCheckRequest (ver inv : Byte) (len : PayloadLen)
  | aliveCheckResponse (ver inv : Byte) (len : PayloadLen)
  | entityStatusRequest (ver inv : Byte) (len : PayloadLen)
  | entityStatusResponse (ver inv : Byte) (len : PayloadLen)
  | powerInformationRequest (ver inv : Byte) (len : PayloadLen)
  | powerInformationResponse (ver inv : Byte) (len : PayloadLen)
  | diagnosticMessage (ver inv : Byte) (len : PayloadLen)
  | diagnosticMessageAck (ver inv : Byte) (len : PayloadLen)
  | diagnosticMessageNack (ver inv : Byte) (len : PayloadLen)
  deriving DecidableEq, Repr

/-- What the host presents for one operation on the ports `OP` and `IN` (R22): the select code and one lane per kind of
argument; the select code says which lanes the operation reads (R58). -/
structure OpPort where
  sel    : Select
  inByte : Byte
  count  : Nat
  bytes  : List Byte
  header : Header
  code   : TypeCode
  route  : Route
  value  : Payload
  deriving DecidableEq, Repr

/-- An instruction as it is presented to the block: an operation on the `OP` port (format CMD4), or the bytes of a frame
header at the head of the buffer (format HDR64). -/
inductive Encoded where
  | cmd (p : OpPort)
  | frame (bytes : List Byte)
  deriving DecidableEq, Repr

end Sys2Proof
end

