-- ==== Sys2Proof/Config.lean ====
section
/-! DEFINITION. Config.lean: the parameters of an instance (00_scope.md R4, R5) and the parts of the open parameters
`PCODEC` and `PENC` that the spec leaves without a value (44_payload_port.md; 93_implementation_defined.md U8, U9). -/

namespace Sys2Proof

/-- The parameters of one instance that are plain data (R4): `CAP` (`none` is the spec's `∞`), `MAX_FRAME_SIZE`,
`VERSION_CODES`. They are fixed for the life of the instance (R20, R202); State carries them unchanged (log entry 1), so a
claim about every state holds for every configuration. -/
structure Params where
  cap          : Option Nat
  maxFrameSize : Nat
  versionCodes : List Byte
  deriving DecidableEq, Repr

/-- The constraints of R5 on the parameters: `CAP >= 1`, `MAX_FRAME_SIZE >= 8`, six distinct version codes, `0x02` and
`0xFF` among them. -/
abbrev Params.Valid (c : Params) : Prop :=
  (∀ n ∈ c.cap, 1 ≤ n) ∧ 8 ≤ c.maxFrameSize ∧ c.versionCodes.length = 6 ∧ c.versionCodes.Nodup ∧
    0x02#8 ∈ c.versionCodes ∧ 0xFF#8 ∈ c.versionCodes

/-- The default configuration of 95_test_vectors.md: `CAP = ∞`, `MAX_FRAME_SIZE = 8388608` (D5), and the default
`VERSION_CODES` of R53. PRESUMED for the codes `0x01`, `0x03` and `0x04`, which the spec marks as general knowledge
(log entry 2). -/
def Params.default : Params where
  cap          := none
  maxFrameSize := 8388608
  versionCodes := [0x00#8, 0x01#8, 0x02#8, 0x03#8, 0x04#8, 0xFF#8]

/-- The nine coded payload fields, each with one error of its own (R142, R145). -/
inductive CodedField where
  | nackCode
  | activationType
  | activationCode
  | powerMode
  | nodeType
  | diagnosticAckCode
  | diagnosticNackCode
  | actionCode
  | syncStatus
  deriving DecidableEq, Repr

/-- FREE VALUE (log entry 6): whether a byte is a declared code of a coded field, where the spec does not say (U9). -/
opaque Config.declaredCode : CodedField → Byte → Bool

/-- FREE VALUE (log entry 6): some declared code of each coded field; the spec gives no set, and every coded field has a
code (R142 speaks of the invalid ones only as those outside the declared set). -/
opaque Config.someCode : CodedField → Byte

/-- FREE VALUE (log entry 7): what a codec answers to bytes beyond the last field of a fixed structure (R163, U8): `none`
is accepted and ignored, `some f` is refused with the error of `f`. -/
opaque Config.surplusVerdict : Route → List Byte → Header → Option CodedField

/-- FREE VALUE (log entry 8): whether the VehicleAnnouncementMessage codec checks the sync status before the action code
(R174: the codec's own order). -/
opaque Config.syncStatusFirst : Bool

/-- FREE VALUE (log entry 9): the bytes an encoder gives for a payload value of another route, or with a field of another
width than R145's, which is no operand of `ENC` (R131: "a payload value that PENC[kp] can encode"). -/
opaque Config.pencOther : Route → Payload → List Byte

end Sys2Proof
end

