-- ==== Sys2Proof/WellFormed.lean ====
section
/-! DEFINITION. WellFormed.lean: which instructions are well formed under a configuration: a frame header whose version
and check byte are valid (R52, R54), an encoder operand that the encoder of its tag can encode (R131, R145). -/

namespace Sys2Proof

/-- The fixed-width fields of a payload value have the widths of R145. -/
def Payload.wf : Payload → Bool
  | .genericNack _ => true
  | .vehicleIdentificationRequest => true
  | .vehicleIdentificationRequestEid eid => eid.length == 6
  | .vehicleIdentificationRequestVin vin => vin.length == 17
  | .vehicleAnnouncementMessage vin la eid gid _ _ =>
      vin.length == 17 && la.length == 2 && eid.length == 6 && gid.length == 6
  | .routingActivationRequest sa _ rb => sa.length == 2 && rb.length == 4
  | .routingActivationResponse a b _ rb => a.length == 2 && b.length == 2 && rb.length == 4
  | .aliveCheckRequest => true
  | .aliveCheckResponse sa => sa.length == 2
  | .entityStatusRequest => true
  | .entityStatusResponse _ _ _ l => l.length == 4
  | .powerInformationRequest => true
  | .powerInformationResponse _ => true
  | .diagnosticMessage a b _ => a.length == 2 && b.length == 2
  | .diagnosticMessageAck a b _ => a.length == 2 && b.length == 2
  | .diagnosticMessageNack a b _ => a.length == 2 && b.length == 2

/-- The version byte is one of `VERSION_CODES` and the check byte is its complement (R52, R54). -/
def versionPairWf (c : Params) (ver inv : Byte) : Bool :=
  decide (ver ∈ c.versionCodes) && inv == ~~~ver

/-- Well-formedness of an instruction under a configuration. The operations take any operand (R58, R71, R79, R91, R117),
but for `ENC`, whose payload value carries the tag `kp` and has its fields' widths (R131). An ill-formed frame header is
still executed: it takes the error R59 names. -/
def Instr.wf (c : Params) : Instr → Bool
  | .rst => true
  | .push _ => true
  | .dec => true
  | .skip _ => true
  | .hunpk _ => true
  | .hpk _ => true
  | .dsp _ => true
  | .dspinv _ => true
  | .enc _ kp v => v.route == kp && v.wf
  | .genericNack ver inv _ => versionPairWf c ver inv
  | .vehicleIdentificationRequest ver inv _ => versionPairWf c ver inv
  | .vehicleIdentificationRequestEid ver inv _ => versionPairWf c ver inv
  | .vehicleIdentificationRequestVin ver inv _ => versionPairWf c ver inv
  | .vehicleAnnouncementMessage ver inv _ => versionPairWf c ver inv
  | .routingActivationRequest ver inv _ => versionPairWf c ver inv
  | .routingActivationResponse ver inv _ => versionPairWf c ver inv
  | .aliveCheckRequest ver inv _ => versionPairWf c ver inv
  | .aliveCheckResponse ver inv _ => versionPairWf c ver inv
  | .entityStatusRequest ver inv _ => versionPairWf c ver inv
  | .entityStatusResponse ver inv _ => versionPairWf c ver inv
  | .powerInformationRequest ver inv _ => versionPairWf c ver inv
  | .powerInformationResponse ver inv _ => versionPairWf c ver inv
  | .diagnosticMessage ver inv _ => versionPairWf c ver inv
  | .diagnosticMessageAck ver inv _ => versionPairWf c ver inv
  | .diagnosticMessageNack ver inv _ => versionPairWf c ver inv

end Sys2Proof
end

