-- ==== Sys2Proof/Decode.lean ====
section
/-! DEFINITION. Decode.lean: the type code table and the header fields (30_encoding.md R50, R51, R55), the decoders of the
two formats (HDR64, CMD4), total and rejecting by name, and after them the encoder, written from the same tables. -/

namespace Sys2Proof

/-! ## The payload type table (R55) -/

/-- The 16 routes in the order of R55, which is the order of their numbers. -/
def Route.all : List Route :=
  [.genericNack, .vehicleIdentificationRequest, .vehicleIdentificationRequestEid, .vehicleIdentificationRequestVin,
   .vehicleAnnouncementMessage, .routingActivationRequest, .routingActivationResponse, .aliveCheckRequest] ++
  [.aliveCheckResponse, .entityStatusRequest, .entityStatusResponse, .powerInformationRequest,
   .powerInformationResponse, .diagnosticMessage, .diagnosticMessageAck, .diagnosticMessageNack]

/-- `TYPE_CODES[k]` (R55). -/
def Route.code : Route → TypeCode
  | .genericNack => 0x0000#16
  | .vehicleIdentificationRequest => 0x0001#16
  | .vehicleIdentificationRequestEid => 0x0002#16
  | .vehicleIdentificationRequestVin => 0x0003#16
  | .vehicleAnnouncementMessage => 0x0004#16
  | .routingActivationRequest => 0x0005#16
  | .routingActivationResponse => 0x0006#16
  | .aliveCheckRequest => 0x0007#16
  | .aliveCheckResponse => 0x0008#16
  | .entityStatusRequest => 0x4001#16
  | .entityStatusResponse => 0x4002#16
  | .powerInformationRequest => 0x4003#16
  | .powerInformationResponse => 0x4004#16
  | .diagnosticMessage => 0x8001#16
  | .diagnosticMessageAck => 0x8002#16
  | .diagnosticMessageNack => 0x8003#16

/-- The number of a route (R55, R90). -/
def Route.index : Route → BitVec 4
  | .genericNack => 0#4
  | .vehicleIdentificationRequest => 1#4
  | .vehicleIdentificationRequestEid => 2#4
  | .vehicleIdentificationRequestVin => 3#4
  | .vehicleAnnouncementMessage => 4#4
  | .routingActivationRequest => 5#4
  | .routingActivationResponse => 6#4
  | .aliveCheckRequest => 7#4
  | .aliveCheckResponse => 8#4
  | .entityStatusRequest => 9#4
  | .entityStatusResponse => 10#4
  | .powerInformationRequest => 11#4
  | .powerInformationResponse => 12#4
  | .diagnosticMessage => 13#4
  | .diagnosticMessageAck => 14#4
  | .diagnosticMessageNack => 15#4

/-- The 16 known payload type codes, `TYPE_CODES` (R4, R55). -/
def typeCodes : List TypeCode := Route.all.map Route.code

/-- The route whose code is `t`, if there is one: an exact match of all 16 bits (R63, R91). -/
def Route.ofCode (t : TypeCode) : Option Route := Route.all.find? fun k => k.code == t

/-- The mask of every HDR64 row on the header word (R55). -/
def Route.rowMask : HeaderWord := 0x0000FFFF00000000#64

/-- The match value of a route's HDR64 row on the header word (R55). -/
def Route.rowMatch : Route → HeaderWord
  | .genericNack => 0x0000000000000000#64
  | .vehicleIdentificationRequest => 0x0000000100000000#64
  | .vehicleIdentificationRequestEid => 0x0000000200000000#64
  | .vehicleIdentificationRequestVin => 0x0000000300000000#64
  | .vehicleAnnouncementMessage => 0x0000000400000000#64
  | .routingActivationRequest => 0x0000000500000000#64
  | .routingActivationResponse => 0x0000000600000000#64
  | .aliveCheckRequest => 0x0000000700000000#64
  | .aliveCheckResponse => 0x0000000800000000#64
  | .entityStatusRequest => 0x0000400100000000#64
  | .entityStatusResponse => 0x0000400200000000#64
  | .powerInformationRequest => 0x0000400300000000#64
  | .powerInformationResponse => 0x0000400400000000#64
  | .diagnosticMessage => 0x0000800100000000#64
  | .diagnosticMessageAck => 0x0000800200000000#64
  | .diagnosticMessageNack => 0x0000800300000000#64

/-! ## Header fields (R50, R51) -/

/-- `be16` of two bytes, the first the more significant (R6, R32). -/
def be16 (b0 b1 : Byte) : TypeCode := b0 ++ b1

/-- `be32` of four bytes, the first the most significant (R6, R32). -/
def be32 (b0 b1 b2 b3 : Byte) : PayloadLen := ((b0 ++ b1 : BitVec 16) ++ (b2 ++ b3 : BitVec 16) : BitVec 32)

/-- `to_be16` (R6, R51). -/
def toBe16 (t : TypeCode) : List Byte := [t.extractLsb' 8 8, t.extractLsb' 0 8]

/-- `to_be32` (R6, R51). -/
def toBe32 (l : PayloadLen) : List Byte :=
  [l.extractLsb' 24 8, l.extractLsb' 16 8, l.extractLsb' 8 8, l.extractLsb' 0 8]

/-- The header record that R51 assembles from the first 8 bytes of a sequence, if there are 8, valid or not. -/
def Header.ofBytes : List Byte → Option Header
  | b0 :: b1 :: b2 :: b3 :: b4 :: b5 :: b6 :: b7 :: _ => some ⟨b0, b1, be16 b2 b3, be32 b4 b5 b6 b7⟩
  | _ => none

/-- The 8 bytes of a header record (R51). -/
def Header.toBytes (h : Header) : List Byte := [h.ver, h.inv] ++ toBe16 h.type ++ toBe32 h.len

/-- The header word `W` of a header record (R50). -/
def Header.toWord (h : Header) : HeaderWord :=
  ((h.ver ++ h.inv : BitVec 16) ++ h.type : BitVec 32) ++ h.len

/-- The 8 bytes of a header word, `W[63:56]` first (R6, R50). -/
def wordBytes (w : HeaderWord) : List Byte :=
  [w.extractLsb' 56 8, w.extractLsb' 48 8, w.extractLsb' 40 8, w.extractLsb' 32 8] ++
  [w.extractLsb' 24 8, w.extractLsb' 16 8, w.extractLsb' 8 8, w.extractLsb' 0 8]

/-! ## Decoders -/

/-- Why an encoding is no instruction. -/
inductive DecodeError where
  /-- Fewer than the 8 bytes of format HDR64 (R50, R105); the operation that reads them answers `TooShort` or `Incomplete`. -/
  | fewerThanEightBytes
  /-- A type code outside the 16 of R55; the operation that reads it answers an error (R59). -/
  | unknownPayloadType (t : TypeCode)
  /-- A select code `1001` to `1111`; the block answers `Refused` (R58). -/
  | unassignedSelect (c : Select)
  deriving DecidableEq, Repr

/-- The instruction of a route's HDR64 row. -/
def Instr.ofRoute (k : Route) (ver inv : Byte) (len : PayloadLen) : Instr :=
  match k with
  | .genericNack => .genericNack ver inv len
  | .vehicleIdentificationRequest => .vehicleIdentificationRequest ver inv len
  | .vehicleIdentificationRequestEid => .vehicleIdentificationRequestEid ver inv len
  | .vehicleIdentificationRequestVin => .vehicleIdentificationRequestVin ver inv len
  | .vehicleAnnouncementMessage => .vehicleAnnouncementMessage ver inv len
  | .routingActivationRequest => .routingActivationRequest ver inv len
  | .routingActivationResponse => .routingActivationResponse ver inv len
  | .aliveCheckRequest => .aliveCheckRequest ver inv len
  | .aliveCheckResponse => .aliveCheckResponse ver inv len
  | .entityStatusRequest => .entityStatusRequest ver inv len
  | .entityStatusResponse => .entityStatusResponse ver inv len
  | .powerInformationRequest => .powerInformationRequest ver inv len
  | .powerInformationResponse => .powerInformationResponse ver inv len
  | .diagnosticMessage => .diagnosticMessage ver inv len
  | .diagnosticMessageAck => .diagnosticMessageAck ver inv len
  | .diagnosticMessageNack => .diagnosticMessageNack ver inv len

/-- The HDR64 decoder: the table row that the first 8 bytes select, with the bytes after them. The rows constrain the
type code only (R62); the version and the check byte are operands, which execution validates (R59). -/
def decodeFrame (bytes : List Byte) : Except DecodeError (Instr × List Byte) :=
  match Header.ofBytes bytes with
  | none => .error .fewerThanEightBytes
  | some h =>
    match Route.ofCode h.type with
    | none => .error (.unknownPayloadType h.type)
    | some k => .ok (Instr.ofRoute k h.ver h.inv h.len, bytes.drop 8)

/-- The CMD4 decoder: the operation a select code names, with the lanes it reads (R22, R58). -/
def decodeOp (p : OpPort) : Except DecodeError Instr :=
  match p.sel.toNat with
  | 0 => .ok .rst
  | 1 => .ok (.push p.inByte)
  | 2 => .ok .dec
  | 3 => .ok (.skip p.count)
  | 4 => .ok (.hunpk p.bytes)
  | 5 => .ok (.hpk p.header)
  | 6 => .ok (.dsp p.code)
  | 7 => .ok (.dspinv p.route)
  | 8 => .ok (.enc p.header p.route p.value)
  | _ => .error (.unassignedSelect p.sel)

/-- The decoder: total on both formats. -/
def decode : Encoded → Except DecodeError Instr
  | .cmd p => decodeOp p
  | .frame bytes => (decodeFrame bytes).map Prod.fst

/-! ## The encoder -/

/-- The `OP` port with select code 0 and every lane zero or empty. -/
def OpPort.zero : OpPort where
  sel    := 0#4
  inByte := 0#8
  count  := 0
  bytes  := []
  header := ⟨0#8, 0#8, 0#16, 0#32⟩
  code   := 0#16
  route  := .genericNack
  value  := .genericNack 0#8

/-- The bytes of a frame kind's header. -/
def encodeFrame (k : Route) (ver inv : Byte) (len : PayloadLen) : Encoded :=
  .frame (Header.toBytes ⟨ver, inv, k.code, len⟩)

/-- The encoding of an instruction: the select codes of R58 with the lanes of R22, or the header bytes of R51. -/
def encode : Instr → Encoded
  | .rst => .cmd { OpPort.zero with sel := 0b0000#4 }
  | .push b => .cmd { OpPort.zero with sel := 0b0001#4, inByte := b }
  | .dec => .cmd { OpPort.zero with sel := 0b0010#4 }
  | .skip n => .cmd { OpPort.zero with sel := 0b0011#4, count := n }
  | .hunpk s => .cmd { OpPort.zero with sel := 0b0100#4, bytes := s }
  | .hpk h => .cmd { OpPort.zero with sel := 0b0101#4, header := h }
  | .dsp t => .cmd { OpPort.zero with sel := 0b0110#4, code := t }
  | .dspinv k => .cmd { OpPort.zero with sel := 0b0111#4, route := k }
  | .enc h kp v => .cmd { OpPort.zero with sel := 0b1000#4, header := h, route := kp, value := v }
  | .genericNack ver inv len => encodeFrame .genericNack ver inv len
  | .vehicleIdentificationRequest ver inv len => encodeFrame .vehicleIdentificationRequest ver inv len
  | .vehicleIdentificationRequestEid ver inv len => encodeFrame .vehicleIdentificationRequestEid ver inv len
  | .vehicleIdentificationRequestVin ver inv len => encodeFrame .vehicleIdentificationRequestVin ver inv len
  | .vehicleAnnouncementMessage ver inv len => encodeFrame .vehicleAnnouncementMessage ver inv len
  | .routingActivationRequest ver inv len => encodeFrame .routingActivationRequest ver inv len
  | .routingActivationResponse ver inv len => encodeFrame .routingActivationResponse ver inv len
  | .aliveCheckRequest ver inv len => encodeFrame .aliveCheckRequest ver inv len
  | .aliveCheckResponse ver inv len => encodeFrame .aliveCheckResponse ver inv len
  | .entityStatusRequest ver inv len => encodeFrame .entityStatusRequest ver inv len
  | .entityStatusResponse ver inv len => encodeFrame .entityStatusResponse ver inv len
  | .powerInformationRequest ver inv len => encodeFrame .powerInformationRequest ver inv len
  | .powerInformationResponse ver inv len => encodeFrame .powerInformationResponse ver inv len
  | .diagnosticMessage ver inv len => encodeFrame .diagnosticMessage ver inv len
  | .diagnosticMessageAck ver inv len => encodeFrame .diagnosticMessageAck ver inv len
  | .diagnosticMessageNack ver inv len => encodeFrame .diagnosticMessageNack ver inv len

/-! ## Table words -/

/-- The `OP` port that presents the select code in the low 4 bits of a table word, every other lane zero. -/
def OpPort.ofTableWord (w : Nat) : OpPort := { OpPort.zero with sel := BitVec.ofNat 4 w }

/-- The encoding a table word stands for: a row of at most one byte is a CMD4 select code, a longer one the header word
of HDR64 (R62). -/
def encodedOfTableWord (nbits w : Nat) : Encoded :=
  if nbits ≤ 8 then .cmd (OpPort.ofTableWord w) else .frame (wordBytes (BitVec.ofNat 64 w))

/-- The instruction the decoder reads from a table word. -/
def decodeTableWord (nbits w : Nat) : Option Instr :=
  match decode (encodedOfTableWord nbits w) with
  | .ok i => some i
  | .error _ => none

end Sys2Proof
end

