-- ==== Sys2Proof/Machine/State.lean ====
section
/-! DEFINITION. Machine/State.lean: the state of one instance (10_state.md): the frame buffer, the outcome register and the
two ghost counters of R17, with the instance's parameters (R4) and the operations the host has still to issue (R9). -/

namespace Sys2Proof.Machine

/-- The 17 error names of R60 and R171. -/
inductive ErrorName where
  | tooShort
  | invalidProtocolVersion
  | failedProtocolValidation
  | invalidPayloadType
  | invalidNackCode
  | invalidActivationType
  | invalidActivationCode
  | invalidPowerMode
  | invalidNodeType
  | invalidDiagnosticAckCode
  | invalidDiagnosticNackCode
  | invalidActionCode
  | invalidSyncStatus
  | messageTooLarge
  | bufferTooSmall
  | payloadTypeValidation
  | payloadLengthValidation
  deriving DecidableEq, Repr

/-- Which operation produced a `Bytes` outcome: the fields of `RES` differ for the two (R15). -/
inductive Packer where
  | hpk
  | enc
  deriving DecidableEq, Repr

/-- The type `Outcome` of R7, the content of the outcome register. -/
inductive OpOutcome where
  | none
  | incomplete
  | frame (h : Header) (k : Route) (p : Payload)
  | header (h : Header)
  | bytes (from_ : Packer) (s : List Byte)
  | route (k : Route)
  | code (t : TypeCode)
  | done
  | error (e : ErrorName)
  | refused
  deriving DecidableEq, Repr

/-- The answer a payload codec may give instead of a value: `TooShort` or the error of one coded field, and no other
(R142). -/
inductive PortError where
  | tooShort
  | invalid (f : CodedField)
  deriving DecidableEq, Repr

/-- Where one `DEC` ends: at a report that consumes nothing, or in Dispatch with the header, the route and the payload
slice that are presented on the payload port (R101, R110). The phases are not stored (R14). -/
inductive DecPhase where
  | report (o : OpOutcome)
  | dispatch (h : Header) (k : Route) (slice : List Byte)
  deriving DecidableEq, Repr

/-- The state of one instance. -/
structure State where
  /-- The parameters of the instance (R4). Configuration: no operation changes it (R20, R202). -/
  cfg      : Params
  /-- `BUF[0..LEN)`: a list whose length is `LEN` (R10, R11, R12). -/
  buf      : List Byte
  /-- The outcome register `RES` (R15). -/
  res      : OpOutcome
  /-- Ghost: bytes removed from the head since reset (R17). -/
  consumed : Nat
  /-- Ghost: frames emitted since reset (R17). -/
  frames   : Nat
  /-- The operations the host has still to issue, the next one first: the trace of R61 as the ports `OP` and `IN` will
  carry it (R9, R22, R40). DESIGN CHOICE (log entry 3): the model's own field. -/
  ops      : List OpPort
  deriving DecidableEq, Repr

/-- Reasons to stop with a fault. There is none: "no input makes any operation hang, abort, reset the block or produce an
undefined result" (R177), and an error is an outcome in `RES` (R170). Nothing raises one; safe. -/
inductive Fault where
  deriving DecidableEq, Repr

/-- Reasons to refuse an instruction. -/
inductive Refusal where
  /-- Raised by an arm of `exec` whose instruction has no meaning yet; no arm raises it now; safe (the run stops). The
  spec's outcome `Refused` is not this: it is a next state (R189). -/
  | notModelled (mnemonic : String)
  deriving DecidableEq, Repr

/-- What every meaning answers. -/
abbrev StepResult := Host.Outcome State Fault Refusal

/-- The state right after power-on reset of an instance with the parameters `c` (R24, R200): `BUF = ε`, `LEN = 0`,
`RES = None`, ghost counters 0, the parameters as set before (R202). -/
def State.resetWith (c : Params) : State where
  cfg      := c
  buf      := []
  res      := .none
  consumed := 0
  frames   := 0
  ops      := []

/-- The state right after power-on reset in the default configuration (95_test_vectors.md; log entries 2 and 3). -/
def State.reset : State := State.resetWith Params.default

end Sys2Proof.Machine
end

