-- ==== Sys2Proof/Machine/Operands.lean ====
section
/-! DEFINITION. Machine/Operands.lean: how operations read their operands: buffer bytes by offset (20_memory.md R30), slices
(R6), the header of a byte sequence with its checks (40_header_codec.md R71, R82), the frame total (R107). -/

namespace Sys2Proof.Machine

/-- `BUF[i]`; there is no byte at or beyond `LEN` (R12, R39). -/
def State.readByte (s : State) (i : Nat) : Option Byte := s.buf[i]?

/-- `s[i..j)`: the bytes with indices `i` to `j - 1` (R6). -/
def sliceOf (bytes : List Byte) (i j : Nat) : List Byte := (bytes.drop i).take (j - i)

/-- `VerValid(h)` (R52, R82). -/
def verValid (c : Params) (h : Header) : Bool := decide (h.ver ∈ c.versionCodes)

/-- `InvValid(h)`: the strict 8-bit complement, with no special case for the sentinel pair (R54, R73, R74). -/
def invValid (h : Header) : Bool := h.inv == ~~~h.ver

/-- `TypeValid(h)` (R75, R82). -/
def typeValid (h : Header) : Bool := decide (h.type ∈ typeCodes)

/-- `HdrValid(h)` (R82). -/
def hdrValid (c : Params) (h : Header) : Bool := verValid c h && invValid h && typeValid h

/-- The three header checks in the order of R71 and R79; the first that fails is reported (R77). -/
def headerCheck (c : Params) (h : Header) : Except ErrorName Header :=
  if verValid c h = false then .error .invalidProtocolVersion
  else if invValid h = false then .error .failedProtocolValidation
  else if typeValid h = false then .error .invalidPayloadType
  else .ok h

/-- `total = 8 + h.len` as a natural number, which never wraps (R107). -/
def frameTotal (h : Header) : Nat := 8 + h.len.toNat

end Sys2Proof.Machine
end

