-- ==== Sys2Proof/Machine/Flags.lean ====
section
/-! DEFINITION. Machine/Flags.lean: the status a host can read: `LEN`, `full` and `empty` (10_state.md R11, R21), and the fields
of the outcome register as bits (R15, 30_encoding.md R60). The block has no condition codes and no sticky flags (R21). -/

namespace Sys2Proof.Machine

/-- The fill level `LEN` (R11). -/
def State.level (s : State) : Nat := s.buf.length

/-- `n = CAP`, never true when `CAP = ∞` (R21, R114). -/
def atCapacity (c : Params) (n : Nat) : Bool := c.cap == some n

/-- `full`: `LEN = CAP` (R21). -/
def State.full (s : State) : Bool := atCapacity s.cfg s.level

/-- `empty`: `LEN = 0` (R21). -/
def State.empty (s : State) : Bool := s.level == 0

/-- The 5-bit error code of R60. -/
def ErrorName.code : ErrorName → BitVec 5
  | .tooShort => 1#5
  | .invalidProtocolVersion => 2#5
  | .failedProtocolValidation => 3#5
  | .invalidPayloadType => 4#5
  | .invalidNackCode => 5#5
  | .invalidActivationType => 6#5
  | .invalidActivationCode => 7#5
  | .invalidPowerMode => 8#5
  | .invalidNodeType => 9#5
  | .invalidDiagnosticAckCode => 10#5
  | .invalidDiagnosticNackCode => 11#5
  | .invalidActionCode => 12#5
  | .invalidSyncStatus => 13#5
  | .messageTooLarge => 16#5
  | .bufferTooSmall => 17#5
  | .payloadTypeValidation => 18#5
  | .payloadLengthValidation => 19#5

/-- Whether an error is of the class resource/integrity; the others are structural/validation (R60, R172). -/
def ErrorName.isResourceError : ErrorName → Bool
  | .messageTooLarge => true
  | .bufferTooSmall => true
  | .payloadTypeValidation => true
  | .payloadLengthValidation => true
  | _ => false

/-- `RES.KIND` (R15). -/
def OpOutcome.kind : OpOutcome → BitVec 4
  | .none => 0#4
  | .incomplete => 1#4
  | .frame _ _ _ => 2#4
  | .header _ => 3#4
  | .bytes _ _ => 4#4
  | .route _ => 5#4
  | .code _ => 6#4
  | .done => 7#4
  | .error _ => 8#4
  | .refused => 9#4

/-- `RES.ERR`: the error code when the kind is `Error`, 0 otherwise (R15). -/
def OpOutcome.errField : OpOutcome → BitVec 5
  | .error e => e.code
  | _ => 0#5

/-- The header word of a byte sequence that holds a packed header; 0 for a shorter one. -/
def packedWord (s : List Byte) : HeaderWord :=
  match Header.ofBytes s with
  | some h => h.toWord
  | none => 0#64

/-- `RES.HDR`: the header word for `Frame` and `Header`, the packed header for the `Bytes` of `HPK`, 0 otherwise (R15). -/
def OpOutcome.hdrField : OpOutcome → HeaderWord
  | .frame h _ _ => h.toWord
  | .header h => h.toWord
  | .bytes .hpk s => packedWord s
  | _ => 0#64

/-- `RES.ROUTE`: the route for `Frame` and `Route`, 0 otherwise (R15). -/
def OpOutcome.routeField : OpOutcome → BitVec 4
  | .frame _ k _ => k.index
  | .route k => k.index
  | _ => 0#4

/-- `RES.CODE`: the type code for `Code`, 0 otherwise (R15). -/
def OpOutcome.codeField : OpOutcome → TypeCode
  | .code t => t
  | _ => 0#16

/-- `RES.PAYLOAD` when the kind is `Frame`: the payload value (R15). No value after reset (R24) and on `Error` (R179). DESIGN CHOICE
(log entry 19): no value for every other outcome too, on which R15 says nothing of this field. -/
def OpOutcome.payloadValue : OpOutcome → Option Payload
  | .frame _ _ p => some p
  | _ => Option.none

/-- `RES.PAYLOAD` when the kind is `Bytes` from `ENC`: the whole encoded frame (R15). Empty after reset (R24) and on `Error` (R179);
a `Frame` has its payload value in the field instead. DESIGN CHOICE (log entry 19): empty for every other outcome too, on which
R15 says nothing of this field. -/
def OpOutcome.encodedFrame : OpOutcome → List Byte
  | .bytes .enc s => s
  | _ => []

/-- The bytes driven on the port `OUT` by the most recent operation: those of a packed header or an encoded frame, first
byte first, and none otherwise (R22, R79, R131, R135). -/
def State.out (s : State) : List Byte :=
  match s.res with
  | .bytes _ b => b
  | _ => []

/-- Whether an outcome is a `Frame`. -/
def OpOutcome.isFrame : OpOutcome → Bool
  | .frame _ _ _ => true
  | _ => false

/-- Whether an outcome is an `Error`. -/
def OpOutcome.isError : OpOutcome → Bool
  | .error _ => true
  | _ => false

end Sys2Proof.Machine
end

