-- ==== Sys2Proof/Machine/Ops.lean ====
section
/-! DEFINITION. Machine/Ops.lean: the shared operations on the state: writing `RES` (10_state.md R16), taking an error (R178),
and the only changes a buffer undergoes, at its tail and at its head (R10); and the buffer as a memory of cells (R30). -/

namespace Sys2Proof.Machine

/-- `RES <- o`, the way every operation ends (R16). -/
def State.answer (s : State) (o : OpOutcome) : State := { s with res := o }

/-- Taking an exception: `raise e` writes `RES <- Error(e)` and changes nothing else; control goes nowhere, since there is
no vector and no handler (R7, R178). There is no return from it: the next operation simply overwrites `RES` (R181). -/
def State.raise (s : State) (e : ErrorName) : State := s.answer (.error e)

/-- `BUF, LEN <- BUF ++ [b]` (R115). -/
def State.appendByte (s : State) (b : Byte) : State := { s with buf := s.buf ++ [b] }

/-- `BUF, LEN <- BUF[n..LEN)`, with the ghost counter `CONSUMED` (R17, R111, R117). -/
def State.removeHead (s : State) (n : Nat) : State := { s with buf := s.buf.drop n, consumed := s.consumed + n }

/-- The ghost counter `FRAMES` counts an emitted frame (R17). -/
def State.countFrame (s : State) : State := { s with frames := s.frames + 1 }

/-- `BUF, LEN <- ε; CONSUMED <- 0; FRAMES <- 0` (R201). -/
def State.discardAll (s : State) : State := { s with buf := [], consumed := 0, frames := 0 }

/-- The report of a `DEC` that needs more data: `BufferTooSmall` on a buffer at capacity, else `Incomplete` (R105, R109,
R114). -/
def needMoreData (c : Params) (n : Nat) : OpOutcome :=
  if atCapacity c n then .error .bufferTooSmall else .incomplete

/-! ## The buffer as memory cells

R12 asks for a list whose length is `LEN`; its addresses are the offsets 0 to `LEN - 1` (R30). The view below gives the
same bytes as address and byte pairs; an unlisted address reads as no value (R39; log entry 4). -/

/-- The cells of a buffer whose first byte lies at address `base`. -/
def cellsFrom (base : Nat) : List Byte → List Host.Cell
  | [] => []
  | b :: rest => (base, b) :: cellsFrom (base + 1) rest

/-- The memory of an instance: the cells of `BUF[0..LEN)`. -/
def State.memory (s : State) : List Host.Cell := cellsFrom 0 s.buf

/-- Canonical form: the addresses are those from `base` upwards without a gap, hence strictly rising. -/
def cellsWf (base : Nat) : List Host.Cell → Bool
  | [] => true
  | c :: rest => c.1 == base && cellsWf (base + 1) rest

/-- The memory has its canonical form. -/
abbrev Memory.wf (m : List Host.Cell) : Prop := cellsWf 0 m = true

/-- Reading one address of a list of cells. -/
def Memory.read (m : List Host.Cell) (a : Nat) : Option Byte := (m.find? fun c => c.1 == a).map Prod.snd

end Sys2Proof.Machine
end

