-- ==== Sys2Proof/Machine/HeaderCodec.lean ====
section
/-! DEFINITION. Machine/HeaderCodec.lean: the header codec (40_header_codec.md): `HUNPK` and `HPK`. -/

namespace Sys2Proof.Machine

/-- `hunpk(s)` (R71): `TooShort` below 8 bytes whatever they are (R72), else the header of the first 8 with its checks;
the length field is not checked (R76). -/
def hunpk (c : Params) (s : List Byte) : Except ErrorName Header :=
  match Header.ofBytes s with
  | none => .error .tooShort
  | some h => headerCheck c h

/-- `hpk(h)` (R79): the same checks (R80), then the 8 bytes; `inv` is checked, not computed. -/
def hpk (c : Params) (h : Header) : Except ErrorName (List Byte) :=
  match headerCheck c h with
  | .error e => .error e
  | .ok g => .ok g.toBytes

/-- The outcome of `HUNPK s`. -/
def hunpkOutcome (c : Params) (s : List Byte) : OpOutcome :=
  match hunpk c s with
  | .error e => .error e
  | .ok h => .header h

/-- The outcome of `HPK h`. -/
def hpkOutcome (c : Params) (h : Header) : OpOutcome :=
  match hpk c h with
  | .error e => .error e
  | .ok b => .bytes .hpk b

/-- `HUNPK s` (R71): writes `RES` only (R70). -/
def execHunpk (bytes : List Byte) (s : State) : StepResult := .next (s.answer (hunpkOutcome s.cfg bytes))

/-- `HPK h` (R79): writes `RES` only, and drives the bytes on `OUT` (R23). -/
def execHpk (h : Header) (s : State) : StepResult := .next (s.answer (hpkOutcome s.cfg h))

end Sys2Proof.Machine
end

