-- ==== Sys2Proof/Machine/PayloadPort.lean ====
section
/-! DEFINITION. Machine/PayloadPort.lean: the payload port (44_payload_port.md): the 16 decoders `PCODEC` and encoders `PENC`,
as far as the spec gives their structure, over the free values of Config.lean where it does not. -/

namespace Sys2Proof.Machine

/-- `MINLEN[k]`, the minimum structural length (R145). -/
def minLen : Route → Nat
  | .genericNack => 1
  | .vehicleIdentificationRequest => 0
  | .vehicleIdentificationRequestEid => 6
  | .vehicleIdentificationRequestVin => 17
  | .vehicleAnnouncementMessage => 32
  | .routingActivationRequest => 7
  | .routingActivationResponse => 9
  | .aliveCheckRequest => 0
  | .aliveCheckResponse => 2
  | .entityStatusRequest => 0
  | .entityStatusResponse => 7
  | .powerInformationRequest => 0
  | .powerInformationResponse => 1
  | .diagnosticMessage => 4
  | .diagnosticMessageAck => 5
  | .diagnosticMessageNack => 5

/-- The longest payload whose bytes all belong to a field: none for DiagnosticMessage, whose body takes the rest (R159),
the long variant for VehicleAnnouncementMessage (R150), `MINLEN` for the others (R145, R163). -/
def maxLen : Route → Option Nat
  | .diagnosticMessage => none
  | .vehicleAnnouncementMessage => some 33
  | k => some (minLen k)

/-- The payload has bytes beyond the last field of its type (R163, U8, U10). -/
def hasSurplus (k : Route) (n : Nat) : Bool :=
  match maxLen k with
  | none => false
  | some m => decide (m < n)

/-- The error of a coded field (R142, R145). -/
def fieldError : CodedField → ErrorName
  | .nackCode => .invalidNackCode
  | .activationType => .invalidActivationType
  | .activationCode => .invalidActivationCode
  | .powerMode => .invalidPowerMode
  | .nodeType => .invalidNodeType
  | .diagnosticAckCode => .invalidDiagnosticAckCode
  | .diagnosticNackCode => .invalidDiagnosticNackCode
  | .actionCode => .invalidActionCode
  | .syncStatus => .invalidSyncStatus

/-- The error name a port answer stands for (R142). -/
def portErrorName : PortError → ErrorName
  | .tooShort => .tooShort
  | .invalid f => fieldError f

/-- Whether the spec evidences the verdict on a code: ack code `0x00` is valid and `0x42` is not (R160), activation type
`0x00` is valid (R151); it evidences no other (U9). -/
def evidencedCode (f : CodedField) (b : Byte) : Option Bool :=
  match f with
  | .diagnosticAckCode => if b = 0x00#8 then some true else if b = 0x42#8 then some false else none
  | .activationType => if b = 0x00#8 then some true else none
  | _ => none

/-- Whether `b` is a declared code of the field `f`: the evidenced verdict, else the free one (U9; log entry 6). -/
def codeOk (f : CodedField) (b : Byte) : Bool :=
  match evidencedCode f b with
  | some v => v
  | none => b == Config.someCode f || Config.declaredCode f b

/-- The byte at a fixed offset of a payload that has reached its minimum length (R143). -/
def byteAt (s : List Byte) (i : Nat) : Byte := s.getD i 0#8

/-- A coded field that is checked before `next` is answered (R143 step (c)). -/
def checkCode (f : CodedField) (b : Byte) (next : Except PortError Payload) : Except PortError Payload :=
  if codeOk f b then next else .error (.invalid f)

/-- The sync status check of a VehicleAnnouncementMessage, for a payload that has the field (R150). -/
def checkSync (sync : Option Byte) (next : Except PortError Payload) : Except PortError Payload :=
  match sync with
  | none => next
  | some b => checkCode .syncStatus b next

/-- VehicleAnnouncementMessage (R150): the sync status is decoded exactly when `h.len = 33`; the order of the two code
checks is free (log entry 8). -/
def decodeVam (s : List Byte) (h : Header) : Except PortError Payload :=
  let action := byteAt s 31
  let sync : Option Byte := if h.len = 33#32 then s[32]? else none
  let value : Payload := .vehicleAnnouncementMessage (sliceOf s 0 17) (sliceOf s 17 19) (sliceOf s 19 25)
    (sliceOf s 25 31) action sync
  if Config.syncStatusFirst then checkSync sync (checkCode .actionCode action (.ok value))
  else checkCode .actionCode action (checkSync sync (.ok value))

/-- The fields of each payload type at their offsets (R145 to R161), for a payload of at least `MINLEN` bytes. -/
def decodeFields (k : Route) (s : List Byte) (h : Header) : Except PortError Payload :=
  match k with
  | .genericNack => checkCode .nackCode (byteAt s 0) (.ok (.genericNack (byteAt s 0)))
  | .vehicleIdentificationRequest => .ok .vehicleIdentificationRequest
  | .vehicleIdentificationRequestEid => .ok (.vehicleIdentificationRequestEid (sliceOf s 0 6))
  | .vehicleIdentificationRequestVin => .ok (.vehicleIdentificationRequestVin (sliceOf s 0 17))
  | .vehicleAnnouncementMessage => decodeVam s h
  | .routingActivationRequest =>
      checkCode .activationType (byteAt s 2)
        (.ok (.routingActivationRequest (sliceOf s 0 2) (byteAt s 2) (sliceOf s 3 7)))
  | .routingActivationResponse =>
      checkCode .activationCode (byteAt s 4)
        (.ok (.routingActivationResponse (sliceOf s 0 2) (sliceOf s 2 4) (byteAt s 4) (sliceOf s 5 9)))
  | .aliveCheckRequest => .ok .aliveCheckRequest
  | .aliveCheckResponse => .ok (.aliveCheckResponse (sliceOf s 0 2))
  | .entityStatusRequest => .ok .entityStatusRequest
  | .entityStatusResponse =>
      checkCode .nodeType (byteAt s 0)
        (.ok (.entityStatusResponse (byteAt s 0) (byteAt s 1) (byteAt s 2) (sliceOf s 3 7)))
  | .powerInformationRequest => .ok .powerInformationRequest
  | .powerInformationResponse => checkCode .powerMode (byteAt s 0) (.ok (.powerInformationResponse (byteAt s 0)))
  | .diagnosticMessage => .ok (.diagnosticMessage (sliceOf s 0 2) (sliceOf s 2 4) (s.drop 4))
  | .diagnosticMessageAck =>
      checkCode .diagnosticAckCode (byteAt s 4)
        (.ok (.diagnosticMessageAck (sliceOf s 0 2) (sliceOf s 2 4) (byteAt s 4)))
  | .diagnosticMessageNack =>
      checkCode .diagnosticNackCode (byteAt s 4)
        (.ok (.diagnosticMessageNack (sliceOf s 0 2) (sliceOf s 2 4) (byteAt s 4)))

/-- `PCODEC(k, s, h)` (R140, R143): `TooShort` exactly below `MINLEN[k]` (R162), the codec's own verdict on surplus bytes
(R163; log entry 7), then the fields. -/
def pcodec (k : Route) (s : List Byte) (h : Header) : Except PortError Payload :=
  if s.length < minLen k then .error .tooShort
  else
    match (if hasSurplus k s.length then Config.surplusVerdict k s h else none) with
    | some f => .error (.invalid f)
    | none => decodeFields k s h

/-- The bytes of a payload value: "pure concatenation of fields, largest-field-last where a variable tail exists" (R144). -/
def payloadBytes : Payload → List Byte
  | .genericNack c => [c]
  | .vehicleIdentificationRequest => []
  | .vehicleIdentificationRequestEid eid => eid
  | .vehicleIdentificationRequestVin vin => vin
  | .vehicleAnnouncementMessage vin la eid gid action sync => vin ++ la ++ eid ++ gid ++ [action] ++ sync.toList
  | .routingActivationRequest sa t rb => sa ++ [t] ++ rb
  | .routingActivationResponse a b c rb => a ++ b ++ [c] ++ rb
  | .aliveCheckRequest => []
  | .aliveCheckResponse sa => sa
  | .entityStatusRequest => []
  | .entityStatusResponse n x y l => [n, x, y] ++ l
  | .powerInformationRequest => []
  | .powerInformationResponse m => [m]
  | .diagnosticMessage a b body => a ++ b ++ body
  | .diagnosticMessageAck a b c => a ++ b ++ [c]
  | .diagnosticMessageNack a b c => a ++ b ++ [c]

/-- `v` is a value that `PENC[k]` can encode (R131). DESIGN CHOICE (log entry 9), since the spec does not say which values
these are: those of the route's own variant whose fields have the widths of R145, whatever their code bytes. -/
def encodable (k : Route) (v : Payload) : Bool := v.route == k && v.wf

/-- `PENC(k, v)` (R144): the concatenation of the fields of a value it can encode. DESIGN CHOICE (log entry 9): a value of
another route, or with a field of another width, is no operand of `PENC[k]` (R131), and the bytes are a free value; a value
with an undeclared code byte is encoded as it stands, since R144 gives the concatenation without asking for validity. -/
def penc (k : Route) (v : Payload) : List Byte :=
  if encodable k v then payloadBytes v else Config.pencOther k v

/-- The coded fields of a payload value hold declared codes (R144: "structurally valid"). -/
def codesDeclared : Payload → Bool
  | .genericNack c => codeOk .nackCode c
  | .vehicleIdentificationRequest => true
  | .vehicleIdentificationRequestEid _ => true
  | .vehicleIdentificationRequestVin _ => true
  | .vehicleAnnouncementMessage _ _ _ _ action sync =>
      codeOk .actionCode action && (match sync with | none => true | some b => codeOk .syncStatus b)
  | .routingActivationRequest _ t _ => codeOk .activationType t
  | .routingActivationResponse _ _ c _ => codeOk .activationCode c
  | .aliveCheckRequest => true
  | .aliveCheckResponse _ => true
  | .entityStatusRequest => true
  | .entityStatusResponse n _ _ _ => codeOk .nodeType n
  | .powerInformationRequest => true
  | .powerInformationResponse m => codeOk .powerMode m
  | .diagnosticMessage _ _ _ => true
  | .diagnosticMessageAck _ _ c => codeOk .diagnosticAckCode c
  | .diagnosticMessageNack _ _ c => codeOk .diagnosticNackCode c

/-- A structurally valid payload value: its fields have their widths and its coded fields hold declared codes. -/
def structurallyValid (v : Payload) : Bool := v.wf && codesDeclared v

end Sys2Proof.Machine
end

