-- ==== Sys2Proof/Machine/TypeDispatcher.lean ====
section
/-! DEFINITION. Machine/TypeDispatcher.lean: the payload type dispatcher (41_dispatcher.md): `DSP` and `DSPINV`. -/

namespace Sys2Proof.Machine

/-- `dsp(t)` (R91): the route of one of the 16 codes, else `InvalidPayloadType`; there is no default route (R94). -/
def dsp (t : TypeCode) : Except ErrorName Route :=
  match Route.ofCode t with
  | some k => .ok k
  | none => .error .invalidPayloadType

/-- `dspinv(k)` (R92). -/
def dspinv (k : Route) : TypeCode := k.code

/-- The outcome of `DSP t`. -/
def dspOutcome (t : TypeCode) : OpOutcome :=
  match dsp t with
  | .ok k => .route k
  | .error e => .error e

/-- `DSP t` (R91): writes `RES` only. -/
def execDsp (t : TypeCode) (s : State) : StepResult := .next (s.answer (dspOutcome t))

/-- `DSPINV k` (R92): writes `RES` only; it raises no error. -/
def execDspinv (k : Route) (s : State) : StepResult := .next (s.answer (.code (dspinv k)))

end Sys2Proof.Machine
end

