-- ==== Sys2Proof/Machine/FrameEncoder.lean ====
section
/-! DEFINITION. Machine/FrameEncoder.lean: the frame encode path (43_frame_encoder.md): `ENC`. -/

namespace Sys2Proof.Machine

/-- The type cross-check: the header's type selects the route that is the payload's own tag (R132). A type code outside
the table selects none and fails it. -/
def typeMatches (h : Header) (kp : Route) : Bool :=
  match dsp h.type with
  | .ok k => k == kp
  | .error _ => false

/-- Steps (1) and (2) of `ENC` up to the payload (R131): the type cross-check, then the packed header with its checks
(R132, R133). -/
def encHeader (c : Params) (h : Header) (kp : Route) : Except ErrorName (List Byte) :=
  if typeMatches h kp then hpk c h else .error .payloadTypeValidation

/-- What `ENC` presents on the payload ports: the value on the one port of its tag, once the header is packed; nothing on
any port when `ENC` ends before (R22, R133). -/
def encPort (c : Params) (h : Header) (kp : Route) (v : Payload) : Option (Route × Payload) :=
  match encHeader c h kp with
  | .error _ => none
  | .ok _ => some (kp, v)

/-- `ENC h kp v` (R131): the header's bytes, the payload's, the length cross-check (R134), in that order (R136); the whole
frame or an error and no byte (R135). -/
def encFrame (c : Params) (h : Header) (kp : Route) (v : Payload) : Except ErrorName (List Byte) :=
  match encHeader c h kp with
  | .error e => .error e
  | .ok hb =>
    if (penc kp v).length ≠ h.len.toNat then .error .payloadLengthValidation
    else .ok (hb ++ penc kp v)

/-- The outcome of `ENC h kp v`. -/
def encOutcome (c : Params) (h : Header) (kp : Route) (v : Payload) : OpOutcome :=
  match encFrame c h kp v with
  | .error e => .error e
  | .ok f => .bytes .enc f

/-- `ENC h kp v` (R131): writes `RES` only, and drives the frame on `OUT` (R23). -/
def execEnc (h : Header) (kp : Route) (v : Payload) (s : State) : StepResult :=
  .next (s.answer (encOutcome s.cfg h kp v))

end Sys2Proof.Machine
end

