-- ==== Sys2Proof/Machine/FramingDecoder.lean ====
section
/-! DEFINITION. Machine/FramingDecoder.lean: the framing decoder (42_framing_decoder.md, 70_reset_and_hazards.md R201): `DEC`,
`PUSH`, `SKIP` and `RST`. -/

namespace Sys2Proof.Machine

/-- The phases of one `DEC` up to Dispatch (R101, R102), over the buffer and the result of unpacking its first 8 bytes:
the guard on the buffer (R103), WaitHeader (R105), the header's error (R106), the guard on the declared length (R108),
HaveHeader (R109), Dispatch with the slice of exactly `h.len` bytes (R110). -/
def decPhase (c : Params) (buf : List Byte) (parsed : Except ErrorName Header) : DecPhase :=
  if c.maxFrameSize < buf.length then .report (.error .messageTooLarge)
  else if buf.length < 8 then .report (needMoreData c buf.length)
  else
    match parsed with
    | .error e => .report (.error e)
    | .ok h =>
      if c.maxFrameSize < frameTotal h then .report (.error .messageTooLarge)
      else if buf.length < frameTotal h then .report (needMoreData c buf.length)
      else
        match dsp h.type with
        | .error e => .report (.error e)
        | .ok k => .dispatch h k (sliceOf buf 8 (frameTotal h))

/-- Emit (R111): remove `min(total, LEN)` bytes from the head and answer the frame. -/
def emitFrame (h : Header) (k : Route) (v : Payload) (s : State) : State :=
  ((s.removeHead (min (frameTotal h) s.level)).countFrame).answer (.frame h k v)

/-- The end of a `DEC`: a report changes only `RES` (R112); Dispatch asks the one payload codec of the route (R94, R110)
and either raises its error unchanged (R142) or emits. -/
def finishDec (p : DecPhase) (s : State) : State :=
  match p with
  | .report o => s.answer o
  | .dispatch h k slice =>
    match pcodec k slice h with
    | .error e => s.raise (portErrorName e)
    | .ok v => emitFrame h k v s

/-- The phase in which `DEC` ends in a state; the header is unpacked afresh every time (R14, R106). -/
def State.phaseOfDec (s : State) : DecPhase := decPhase s.cfg s.buf (hunpk s.cfg (sliceOf s.buf 0 8))

/-- What `DEC` presents on the payload ports: on the one port of the route, the slice and the header; nothing on any port
when it ends before Dispatch (R22, R94, R110). -/
def State.decPort (s : State) : Option (Route × List Byte × Header) :=
  match s.phaseOfDec with
  | .report _ => none
  | .dispatch h k slice => some (k, slice, h)

/-- `DEC` (R102). -/
def execDec (s : State) : StepResult := .next (finishDec s.phaseOfDec s)

/-- `PUSH b` (R115): `Refused` on a full buffer, else the byte joins at the tail. -/
def execPush (b : Byte) (s : State) : StepResult :=
  .next (if s.full then s.answer .refused else (s.appendByte b).answer .done)

/-- `SKIP n` (R117): `Refused` past `LEN`, else `n` bytes leave from the head. -/
def execSkip (n : Nat) (s : State) : StepResult :=
  .next (if s.level < n then s.answer .refused else (s.removeHead n).answer .done)

/-- `RST` (R201): every byte is discarded, the ghost counters are zeroed, `RES` is `Done`; the configuration stays (R202). -/
def execRst (s : State) : StepResult := .next (s.discardAll.answer .done)

end Sys2Proof.Machine
end

