-- ==== Sys2Proof/Machine/FrameKinds.lean ====
section
/-! DEFINITION. Machine/FrameKinds.lean: the sixteen frame kinds (30_encoding.md R55): what the decoder does with a frame of the
row's type at the head of the buffer (R102, R110), its header being the instruction's operands and the row's type code. -/

namespace Sys2Proof.Machine

/-- The frame of header `h` at the head of the buffer: the phases of R102 with `h` as the header of its first 8 bytes,
validated in the order of R71. -/
def runFrame (h : Header) (s : State) : State :=
  finishDec (decPhase s.cfg s.buf (headerCheck s.cfg h)) s

/-- GenericNack, type code 0x0000 (R55, R110, R146). -/
def execGenericNack (ver inv : Byte) (len : PayloadLen) (s : State) : StepResult :=
  .next (runFrame ⟨ver, inv, Route.code .genericNack, len⟩ s)

/-- VehicleIdentificationRequest, type code 0x0001 (R55, R110, R147). -/
def execVehicleIdentificationRequest (ver inv : Byte) (len : PayloadLen) (s : State) : StepResult :=
  .next (runFrame ⟨ver, inv, Route.code .vehicleIdentificationRequest, len⟩ s)

/-- VehicleIdentificationRequestEid, type code 0x0002 (R55, R110, R148). -/
def execVehicleIdentificationRequestEid (ver inv : Byte) (len : PayloadLen) (s : State) : StepResult :=
  .next (runFrame ⟨ver, inv, Route.code .vehicleIdentificationRequestEid, len⟩ s)

/-- VehicleIdentificationRequestVin, type code 0x0003 (R55, R110, R149). -/
def execVehicleIdentificationRequestVin (ver inv : Byte) (len : PayloadLen) (s : State) : StepResult :=
  .next (runFrame ⟨ver, inv, Route.code .vehicleIdentificationRequestVin, len⟩ s)

/-- VehicleAnnouncementMessage, type code 0x0004 (R55, R110, R150). -/
def execVehicleAnnouncementMessage (ver inv : Byte) (len : PayloadLen) (s : State) : StepResult :=
  .next (runFrame ⟨ver, inv, Route.code .vehicleAnnouncementMessage, len⟩ s)

/-- RoutingActivationRequest, type code 0x0005 (R55, R110, R151). -/
def execRoutingActivationRequest (ver inv : Byte) (len : PayloadLen) (s : State) : StepResult :=
  .next (runFrame ⟨ver, inv, Route.code .routingActivationRequest, len⟩ s)

/-- RoutingActivationResponse, type code 0x0006 (R55, R110, R152). -/
def execRoutingActivationResponse (ver inv : Byte) (len : PayloadLen) (s : State) : StepResult :=
  .next (runFrame ⟨ver, inv, Route.code .routingActivationResponse, len⟩ s)

/-- AliveCheckRequest, type code 0x0007 (R55, R110, R153). -/
def execAliveCheckRequest (ver inv : Byte) (len : PayloadLen) (s : State) : StepResult :=
  .next (runFrame ⟨ver, inv, Route.code .aliveCheckRequest, len⟩ s)

/-- AliveCheckResponse, type code 0x0008 (R55, R110, R154). -/
def execAliveCheckResponse (ver inv : Byte) (len : PayloadLen) (s : State) : StepResult :=
  .next (runFrame ⟨ver, inv, Route.code .aliveCheckResponse, len⟩ s)

/-- EntityStatusRequest, type code 0x4001 (R55, R110, R155). -/
def execEntityStatusRequest (ver inv : Byte) (len : PayloadLen) (s : State) : StepResult :=
  .next (runFrame ⟨ver, inv, Route.code .entityStatusRequest, len⟩ s)

/-- EntityStatusResponse, type code 0x4002 (R55, R110, R156). -/
def execEntityStatusResponse (ver inv : Byte) (len : PayloadLen) (s : State) : StepResult :=
  .next (runFrame ⟨ver, inv, Route.code .entityStatusResponse, len⟩ s)

/-- PowerInformationRequest, type code 0x4003 (R55, R110, R157). -/
def execPowerInformationRequest (ver inv : Byte) (len : PayloadLen) (s : State) : StepResult :=
  .next (runFrame ⟨ver, inv, Route.code .powerInformationRequest, len⟩ s)

/-- PowerInformationResponse, type code 0x4004 (R55, R110, R158). -/
def execPowerInformationResponse (ver inv : Byte) (len : PayloadLen) (s : State) : StepResult :=
  .next (runFrame ⟨ver, inv, Route.code .powerInformationResponse, len⟩ s)

/-- DiagnosticMessage, type code 0x8001 (R55, R110, R159). -/
def execDiagnosticMessage (ver inv : Byte) (len : PayloadLen) (s : State) : StepResult :=
  .next (runFrame ⟨ver, inv, Route.code .diagnosticMessage, len⟩ s)

/-- DiagnosticMessageAck, type code 0x8002 (R55, R110, R160). -/
def execDiagnosticMessageAck (ver inv : Byte) (len : PayloadLen) (s : State) : StepResult :=
  .next (runFrame ⟨ver, inv, Route.code .diagnosticMessageAck, len⟩ s)

/-- DiagnosticMessageNack, type code 0x8003 (R55, R110, R161). -/
def execDiagnosticMessageNack (ver inv : Byte) (len : PayloadLen) (s : State) : StepResult :=
  .next (runFrame ⟨ver, inv, Route.code .diagnosticMessageNack, len⟩ s)

end Sys2Proof.Machine
end

