-- ==== Sys2Proof/Machine/Dispatch.lean ====
section
/-! DEFINITION. Machine/Dispatch.lean: one arm per instruction, each one call of its meaning. -/

namespace Sys2Proof.Machine

def exec (i : Instr) (s : State) : Host.Outcome State Fault Refusal :=
  match i with
  -- the host operations (30_encoding.md R58)
  | .rst => Sys2Proof.Machine.execRst s
  | .push b => Sys2Proof.Machine.execPush b s
  | .dec => Sys2Proof.Machine.execDec s
  | .skip n => Sys2Proof.Machine.execSkip n s
  | .hunpk bytes => Sys2Proof.Machine.execHunpk bytes s
  | .hpk h => Sys2Proof.Machine.execHpk h s
  | .dsp t => Sys2Proof.Machine.execDsp t s
  | .dspinv k => Sys2Proof.Machine.execDspinv k s
  | .enc h kp v => Sys2Proof.Machine.execEnc h kp v s
  -- the frame kinds (30_encoding.md R55)
  | .genericNack ver inv len => Sys2Proof.Machine.execGenericNack ver inv len s
  | .vehicleIdentificationRequest ver inv len => Sys2Proof.Machine.execVehicleIdentificationRequest ver inv len s
  | .vehicleIdentificationRequestEid ver inv len => Sys2Proof.Machine.execVehicleIdentificationRequestEid ver inv len s
  | .vehicleIdentificationRequestVin ver inv len => Sys2Proof.Machine.execVehicleIdentificationRequestVin ver inv len s
  | .vehicleAnnouncementMessage ver inv len => Sys2Proof.Machine.execVehicleAnnouncementMessage ver inv len s
  | .routingActivationRequest ver inv len => Sys2Proof.Machine.execRoutingActivationRequest ver inv len s
  | .routingActivationResponse ver inv len => Sys2Proof.Machine.execRoutingActivationResponse ver inv len s
  | .aliveCheckRequest ver inv len => Sys2Proof.Machine.execAliveCheckRequest ver inv len s
  | .aliveCheckResponse ver inv len => Sys2Proof.Machine.execAliveCheckResponse ver inv len s
  | .entityStatusRequest ver inv len => Sys2Proof.Machine.execEntityStatusRequest ver inv len s
  | .entityStatusResponse ver inv len => Sys2Proof.Machine.execEntityStatusResponse ver inv len s
  | .powerInformationRequest ver inv len => Sys2Proof.Machine.execPowerInformationRequest ver inv len s
  | .powerInformationResponse ver inv len => Sys2Proof.Machine.execPowerInformationResponse ver inv len s
  | .diagnosticMessage ver inv len => Sys2Proof.Machine.execDiagnosticMessage ver inv len s
  | .diagnosticMessageAck ver inv len => Sys2Proof.Machine.execDiagnosticMessageAck ver inv len s
  | .diagnosticMessageNack ver inv len => Sys2Proof.Machine.execDiagnosticMessageNack ver inv len s

end Sys2Proof.Machine
end

