-- ==== Sys2Proof/Machine/Fetch.lean ====
section
/-! DEFINITION. Machine/Fetch.lean: what the block runs next. The host's next operation stands on the `OP` port (R9, R22); a
`DEC` in turn fetches its frame at the head of the buffer, which is "what the decoder fetches and interprets" (R42). -/

namespace Sys2Proof.Machine

/-- The instruction an operation of the host amounts to: a `DEC` whose first 8 bytes select a row of the type table is
that row's frame kind; every other operation is itself. Running the frame kind is running `DEC`
(`Obligations.FrameKindDoesWhatDecDoes`). -/
def fetchInstr (p : OpPort) (s : State) : Except DecodeError Instr :=
  match decodeOp p with
  | .error e => .error e
  | .ok .dec =>
    match decodeFrame s.buf with
    | .ok (i, _) => .ok i
    | .error _ => .ok .dec
  | .ok i => .ok i

/-- An unassigned select code: "the block does nothing and answers Refused" (R58). -/
def answerUnassigned (s : State) : State := s.answer .refused

/-- The host's next operation leaves the `OP` port as it is performed. -/
def State.takeOp (s : State) (rest : List OpPort) : State := { s with ops := rest }

/-- The header bytes of a table word laid over the first 8 bytes of a buffer. -/
def layHeader (w : Nat) (buf : List Byte) : List Byte := wordBytes (BitVec.ofNat 64 w) ++ buf.drop 8

/-- A state with a table word placed where `step` fetches: a select code as the host's next operation; a header at the
head of the buffer, with `DEC` as the host's next operation. -/
def placeTableWord (s : State) (nbits w : Nat) : State :=
  if nbits ≤ 8 then { s with ops := OpPort.ofTableWord w :: s.ops }
  else { s with buf := layHeader w s.buf, ops := OpPort.ofTableWord 2 :: s.ops }

end Sys2Proof.Machine
end

