-- ==== Sys2Proof/Machine/Step.lean ====
section
/-! DEFINITION. Machine/Step.lean: one step of the block: the host's next operation, performed as one atomic step (00_scope.md
R9, 20_memory.md R37, R40). -/

namespace Sys2Proof.Machine

/-- One step. With no operation issued the block "holds BUF, LEN and RES and does nothing" (R187). -/
def step (s : State) : Host.Outcome State Fault Refusal :=
  match s.ops with
  | [] => .next s
  | p :: rest =>
    match fetchInstr p s with
    | .error _ => .next (answerUnassigned (s.takeOp rest))
    | .ok i => exec i (s.takeOp rest)

/-- A state with a table word placed where `step` fetches its next instruction. -/
def State.withFetchWord (s : State) (nbits w : Nat) : State := placeTableWord s nbits w

end Sys2Proof.Machine
end

