-- ==== Sys2Proof/Machine/Pseudo.lean ====
section
/-! DEFINITION. Machine/Pseudo.lean: the pseudo-operations `FEED` and `DRAIN` and traces of operations (30_encoding.md R61). -/

namespace Sys2Proof.Machine

/-- The state after one operation; every operation answers a next state (R177). -/
def perform (i : Instr) (s : State) : State :=
  match exec i s with
  | .next t => t
  | .fault _ => s
  | .refused _ => s

/-- The state after a trace: the operations one after another, each seeing the state as the previous one left it (R40). -/
def performAll : List Instr → State → State
  | [], s => s
  | i :: rest, s => performAll rest (perform i s)

/-- The outcomes of a trace, in order. -/
def outcomes : List Instr → State → List OpOutcome
  | [], _ => []
  | i :: rest, s => (perform i s).res :: outcomes rest (perform i s)

/-- `FEED b0 b1 ...`: one `PUSH` a byte (R61). -/
def feed (bytes : List Byte) : List Instr := bytes.map Instr.push

/-- The bytes a trace offers to `PUSH`, in order. -/
def offered : List Instr → List Byte
  | [] => []
  | .push b :: rest => b :: offered rest
  | _ :: rest => offered rest

/-- The bytes of the `PUSH` operations of a trace that are answered `Done`, in order: what the trace adds to the stream of
R17. -/
def accepted : List Instr → State → List Byte
  | [], _ => []
  | .push b :: rest, s =>
    if (perform (.push b) s).res = .done then b :: accepted rest (perform (.push b) s)
    else accepted rest (perform (.push b) s)
  | i :: rest, s => accepted rest (perform i s)

/-- `DRAIN` with a bound on its repetitions: `DEC` until its outcome is not `Frame`; the outcomes, and the state it
leaves (R61). -/
def drain : Nat → State → List OpOutcome × State
  | 0, s => ([], s)
  | n + 1, s =>
    let t := perform .dec s
    if t.res.isFrame then (t.res :: (drain n t).1, (drain n t).2) else ([t.res], t)

/-- The operations of a trace as the host presents them. -/
def presented (is : List Instr) : List OpPort :=
  is.filterMap fun i =>
    match encode i with
    | .cmd p => some p
    | .frame _ => none

end Sys2Proof.Machine
end

