-- ==== Sys2Proof/Safety.lean ====
section
/-! DEFINITION. Safety.lean: what counts as a good state, and the states of R204 and duties of 70_reset_and_hazards.md that
claims speak of. -/

namespace Sys2Proof.Machine

/-- The invariant of an instance: its configuration meets R5, `LEN <= CAP` (R11), and the frames emitted account for at
least 8 consumed bytes each (R17, R111). -/
structure State.Inv (s : State) : Prop where
  configured   : s.cfg.Valid
  withinCap    : ∀ n ∈ s.cfg.cap, s.level ≤ n
  frameBytes   : 8 * s.frames ≤ s.consumed

/-- `DEC` answers `Incomplete` and the buffer is empty (R204). -/
def FullyDecoded (s : State) : Prop := (perform .dec s).res = .incomplete ∧ s.level = 0

/-- `DEC` answers `Incomplete` and the buffer is not empty (R204). -/
def AwaitingData (s : State) : Prop := (perform .dec s).res = .incomplete ∧ 0 < s.level

/-- `DEC` answers an `Error` (R204). -/
def Failed (s : State) : Prop := (perform .dec s).res.isError = true

/-- A frame as its header, its route, its payload bytes and a payload value (R119). -/
structure GoodFrame where
  header : Header
  route  : Route
  slice  : List Byte
  value  : Payload
  deriving DecidableEq, Repr

/-- A frame the block can frame under a configuration: a valid header of the route's type whose length is the payload's,
within `MAX_FRAME_SIZE` (R119). -/
structure GoodFrame.Framed (c : Params) (f : GoodFrame) : Prop where
  valid   : hdrValid c f.header = true
  typed   : f.header.type = f.route.code
  length  : f.slice.length = f.header.len.toNat
  bounded : frameTotal f.header ≤ c.maxFrameSize

/-- Such a frame whose payload its codec accepts with the value (R119). -/
structure GoodFrame.Accepted (c : Params) (f : GoodFrame) : Prop where
  framed  : f.Framed c
  decoded : pcodec f.route f.slice f.header = .ok f.value

/-- The bytes of a frame on the wire (R31). -/
def GoodFrame.wire (f : GoodFrame) : List Byte := f.header.toBytes ++ f.slice

/-- The outcome that emits it. -/
def GoodFrame.outcome (f : GoodFrame) : OpOutcome := .frame f.header f.route f.value

/-- A complete accepted frame stands at the head of the buffer. -/
def FrameAtHead (s : State) : Prop := ∃ f : GoodFrame, f.Accepted s.cfg ∧ f.wire <+: s.buf

/-- The duties of the host at one operation of a trace of pushes and decodes (R119): a `PUSH` finds room; a `DEC` finds
at most `MAX_FRAME_SIZE` bytes, and not a full buffer without a complete frame at its head. -/
def DutyMet (s : State) : Instr → Prop
  | .push _ => s.full = false
  | .dec => s.level ≤ s.cfg.maxFrameSize ∧ (s.full = true → FrameAtHead s)
  | _ => False

/-- A proper prefix of a frame the block can frame, or nothing (R119). -/
def PartialFrame (c : Params) (tail : List Byte) : Prop :=
  tail = [] ∨ ∃ g : GoodFrame, g.Framed c ∧ tail <+: g.wire ∧ tail ≠ g.wire

/-- The duties hold at every operation of a trace. -/
def DutiesMet : List Instr → State → Prop
  | [], _ => True
  | i :: rest, s => DutyMet s i ∧ DutiesMet rest (perform i s)

end Sys2Proof.Machine
end

