-- ==== Sys2Proof/Certificates/Slice0/Obligations.lean ====
section
/-! DEFINITION. Certificates/Slice0/Obligations.lean: the statements for the provers, in the order of the spec's files. A rule
is cited as R<n> with its file in the first statement that formalises it. Every statement about a state is about every
configuration, since the parameters stand in the state; a clause that rests on a choice of the model names its log entry. -/

open Sys2Proof Sys2Proof.Machine

/-! ## Encodings (30_encoding.md) -/

/-- A few encodings written out by hand from R55 and R58, each decoding to the instruction it stands for, and one of each
kind that is no instruction. -/
def Obligations.HandWrittenWordsDecode : Prop :=
  decodeFrame [0x02, 0xfd, 0x00, 0x01, 0x00, 0x00, 0x00, 0x00] =
    .ok (.vehicleIdentificationRequest 0x02 0xfd 0, []) ∧
  decodeFrame [0x02, 0xfd, 0x80, 0x02, 0x00, 0x00, 0x00, 0x05, 0x0e] =
    .ok (.diagnosticMessageAck 0x02 0xfd 5, [0x0e]) ∧
  decodeFrame [0xff, 0x00, 0x40, 0x04, 0x00, 0x00, 0x01, 0x00] = .ok (.powerInformationResponse 0xff 0x00 256, []) ∧
  decodeFrame [0x02, 0xfd, 0x00, 0x09, 0x00, 0x00, 0x00, 0x00] = .error (.unknownPayloadType 0x0009) ∧
  decodeFrame [0x02, 0xfd, 0x00, 0x01, 0x00, 0x00, 0x00] = .error .fewerThanEightBytes ∧
  decodeOp { OpPort.zero with sel := 0b0001, inByte := 0xfd } = .ok (.push 0xfd) ∧
  decodeOp { OpPort.zero with sel := 0b0011, count := 300 } = .ok (.skip 300) ∧
  decodeOp { OpPort.zero with sel := 0b0111, route := .diagnosticMessage } = .ok (.dspinv .diagnosticMessage) ∧
  decodeOp { OpPort.zero with sel := 0b1001 } = .error (.unassignedSelect 0b1001)

/-- Decoding gives back every instruction that is encoded, with every operand at every value; a frame header is 8 bytes,
and whatever bytes follow it are left over unread (R50, R51, R58, R62). The lanes of the port `OP` are the model's form of the
arguments (log entry 11). -/
def Obligations.EncodedInstructionDecodesBack : Prop :=
  ∀ (i : Instr) (tail : List Byte),
    match encode i with
    | .cmd p => decodeOp p = .ok i
    | .frame b => b.length = 8 ∧ decodeFrame (b ++ tail) = .ok (i, tail)

/-- Where a decoded word has one meaning, encoding gives it back: the 8 bytes of a header that decodes are the bytes of its
instruction (R51, R62). -/
def Obligations.DecodedHeaderEncodesBack : Prop :=
  ∀ (b rest : List Byte) (i : Instr), decodeFrame b = .ok (i, rest) → encode i = .frame (b.take 8) ∧ b = b.take 8 ++ rest

/-- The two field maps of R51, field by field, and that they are inverse to each other. -/
def Obligations.HeaderFieldMapsAreInverse : Prop :=
  (∀ b0 b1 b2 b3 b4 b5 b6 b7 : Byte, ∃ h, Header.ofBytes [b0, b1, b2, b3, b4, b5, b6, b7] = some h ∧
    h.ver = b0 ∧ h.inv = b1 ∧ h.type.toNat = b2.toNat * 256 + b3.toNat ∧
    h.len.toNat = b4.toNat * 2 ^ 24 + b5.toNat * 2 ^ 16 + b6.toNat * 2 ^ 8 + b7.toNat) ∧
  (∀ h : Header, h.toBytes = [h.ver, h.inv, h.type.extractLsb' 8 8, h.type.extractLsb' 0 8, h.len.extractLsb' 24 8,
    h.len.extractLsb' 16 8, h.len.extractLsb' 8 8, h.len.extractLsb' 0 8]) ∧
  (∀ h : Header, Header.ofBytes h.toBytes = some h) ∧
  (∀ b : List Byte, b.length = 8 → ∃ h, Header.ofBytes b = some h ∧ h.toBytes = b)

/-- The header word places the four fields in the bits of R50, and its 8 bytes are the header's bytes. -/
def Obligations.HeaderWordHoldsFourFields : Prop :=
  ∀ h : Header, h.toWord.extractLsb' 56 8 = h.ver ∧ h.toWord.extractLsb' 48 8 = h.inv ∧
    h.toWord.extractLsb' 32 16 = h.type ∧ h.toWord.extractLsb' 0 32 = h.len ∧ wordBytes h.toWord = h.toBytes

/-- The table of R55, row by row: the routes' numbers, the type codes, the header bytes 2 and 3 and the match values; the mask;
and that the header word selects a row by mask and match exactly when the header's type is the row's code. -/
def Obligations.TableRowIsSelectedByTypeCode : Prop :=
  Route.all.map Route.index = [0, 1, 2, 3, 4, 5, 6, 7, 8, 9, 10, 11, 12, 13, 14, 15] ∧
  typeCodes = [0x0000, 0x0001, 0x0002, 0x0003, 0x0004, 0x0005, 0x0006, 0x0007, 0x0008,
    0x4001, 0x4002, 0x4003, 0x4004, 0x8001, 0x8002, 0x8003] ∧
  Route.all.map (fun k => toBe16 k.code) = [[0x00, 0x00], [0x00, 0x01], [0x00, 0x02], [0x00, 0x03], [0x00, 0x04],
    [0x00, 0x05], [0x00, 0x06], [0x00, 0x07], [0x00, 0x08], [0x40, 0x01], [0x40, 0x02], [0x40, 0x03], [0x40, 0x04],
    [0x80, 0x01], [0x80, 0x02], [0x80, 0x03]] ∧
  Route.all.map Route.rowMatch = typeCodes.map (fun t => BitVec.ofNat 64 (t.toNat * 2 ^ 32)) ∧
  Route.rowMask = 0x0000FFFF00000000 ∧
  ∀ (h : Header) (k : Route), (h.toWord &&& Route.rowMask = k.rowMatch ↔ h.type = k.code)

/-! ## Reset and the step (10_state.md, 70_reset_and_hazards.md) -/

/-- Power-on reset (R200), for an instance of any configuration: the buffer is empty, `LEN` is 0, `RES` is `None`, the ghost
counters are 0, the configuration is as set. That the model's reset state has the default configuration and no pending host
operation is the model's own choice (log entries 2 and 3), of which this says nothing. -/
def Obligations.ResetLeavesEmptyBlock : Prop :=
  ∀ c : Params, (State.resetWith c).buf = [] ∧ (State.resetWith c).level = 0 ∧ (State.resetWith c).res = .none ∧
    (State.resetWith c).consumed = 0 ∧ (State.resetWith c).frames = 0 ∧ (State.resetWith c).cfg = c

/-- `RST` (70_reset_and_hazards.md R201): in every state the buffer is emptied, the ghost counters are 0, `RES` is `Done`, and
the configuration is as before; and after it the instance behaves as after power-on reset: every later operation gives the
same state from either. -/
def Obligations.RstEmptiesTheBlock : Prop :=
  ∀ s : State, exec .rst s = .next { s with buf := [], consumed := 0, frames := 0, res := .done } ∧
    ∀ i : Instr, perform i (perform .rst s) = perform i { State.resetWith s.cfg with ops := s.ops }

/-- A step performs the host's next operation, which leaves the queue: the operation its select code names, a `DEC` whose
first 8 bytes select a row of the type table being that row's frame kind. The queue is the model's own (log entry 3). -/
def Obligations.StepRunsTheDecodedInstruction : Prop :=
  ∀ (s : State) (p : OpPort) (rest : List OpPort) (i : Instr), s.ops = p :: rest → decodeOp p = .ok i →
    (i ≠ .dec → step s = exec i { s with ops := rest }) ∧
    (∀ j tail, i = .dec → decodeFrame s.buf = .ok (j, tail) → step s = exec j { s with ops := rest }) ∧
    (∀ e, i = .dec → decodeFrame s.buf = .error e → step s = exec .dec { s with ops := rest })

/-- The frame kind that a buffer's first 8 bytes select does exactly what `DEC` does to that buffer (R42, R62, R102). -/
def Obligations.FrameKindDoesWhatDecDoes : Prop :=
  ∀ (s : State) (i : Instr) (tail : List Byte), decodeFrame s.buf = .ok (i, tail) → exec i s = exec .dec s

/-- Hence a step on an assigned select code (R58) is `exec` of the operation itself, on the state that operation has left the
queue of. The queue is the model's own (log entry 3), not the spec's. -/
def Obligations.StepPerformsTheHostOperation : Prop :=
  ∀ (s : State) (p : OpPort) (rest : List OpPort) (i : Instr), s.ops = p :: rest → decodeOp p = .ok i →
    step s = exec i { s with ops := rest }

/-- Every step of every state has a next state, and no step changes the configuration (R20, R177, R202); with no operation
issued nothing changes (R187; the queue of operations is the model's own, log entry 3). -/
def Obligations.EveryStepHasANextState : Prop :=
  ∀ s : State, ∃ t, step s = .next t ∧ t.cfg = s.cfg ∧ (s.ops = [] → t = s) ∧ t.ops = s.ops.tail

/-- Every operation answers a next state, writes an outcome other than the reset value (R16, R177), and leaves the
configuration (R20, R202) and the host's later operations alone; the queue of these is the model's own (log entry 3). -/
def Obligations.EveryOperationWritesItsOutcome : Prop :=
  ∀ (i : Instr) (s : State), ∃ t, exec i s = .next t ∧ t.res ≠ .none ∧ t.cfg = s.cfg ∧ t.ops = s.ops

/-- No operation reads `RES` or the ghost counters: states that differ in them alone are left with the same buffer and the
same outcome (R16, R17, R181). -/
def Obligations.NoOperationReadsResOrCounters : Prop :=
  ∀ (i : Instr) (s : State) (r : OpOutcome) (c f : Nat),
    (perform i { s with res := r, consumed := c, frames := f }).res = (perform i s).res ∧
    (perform i { s with res := r, consumed := c, frames := f }).buf = (perform i s).buf ∧
    perform i { s with res := r } = perform i s

/-- The invariant of an instance holds after reset in every configuration that meets R5. That it holds in the model's reset
state rests on the default configuration, the model's choice (log entry 2). -/
def Obligations.ResetMeetsTheInvariant : Prop :=
  (∀ c : Params, c.Valid → (State.resetWith c).Inv) ∧ State.reset.Inv

/-- Every step keeps the invariant: the configuration meets R5, `LEN <= CAP` (R11), and each emitted frame accounts for at
least 8 consumed bytes (R17, R111). -/
def Obligations.StepKeepsTheInvariant : Prop :=
  ∀ s t : State, s.Inv → step s = .next t → t.Inv

/-! ## The outcome register (10_state.md R15) -/

/-- The fields of `RES` (R15), for every outcome: `KIND` and, where the table gives it one, the field's content; every other
field 0 or empty. The packed header of an `HPK` outcome is the 8 bytes as a header word. That `PAYLOAD` is empty is the spec's for
`None` (R24) and `Error` (R179), and the model's choice for `Incomplete`, `Header`, the `Bytes` of `HPK`, `Route`, `Code`, `Done` and
`Refused` (log entry 19); that `Bytes` tells `HPK` from `ENC` is log entry 12. -/
def Obligations.ResFieldsShowTheOutcome : Prop :=
  let view := fun (o : OpOutcome) => (o.kind, o.errField, o.hdrField, o.routeField, o.codeField)
  let payload := fun (o : OpOutcome) => (o.payloadValue, o.encodedFrame)
  (view .none = (0, 0, 0, 0, 0) ∧ payload .none = (none, [])) ∧
  (view .incomplete = (1, 0, 0, 0, 0) ∧ payload .incomplete = (none, [])) ∧
  (∀ h k p, view (.frame h k p) = (2, 0, h.toWord, k.index, 0) ∧ payload (.frame h k p) = (some p, [])) ∧
  (∀ h, view (.header h) = (3, 0, h.toWord, 0, 0) ∧ payload (.header h) = (none, [])) ∧
  (∀ h : Header, view (.bytes .hpk h.toBytes) = (4, 0, h.toWord, 0, 0) ∧ payload (.bytes .hpk h.toBytes) = (none, [])) ∧
  (∀ (h : Header) (s : State) (b : List Byte), (perform (.hpk h) s).res = .bytes .hpk b → b = h.toBytes) ∧
  (∀ f, view (.bytes .enc f) = (4, 0, 0, 0, 0) ∧ payload (.bytes .enc f) = (none, f)) ∧
  (∀ k, view (.route k) = (5, 0, 0, k.index, 0) ∧ payload (.route k) = (none, [])) ∧
  (∀ t, view (.code t) = (6, 0, 0, 0, t) ∧ payload (.code t) = (none, [])) ∧
  (view .done = (7, 0, 0, 0, 0) ∧ payload .done = (none, [])) ∧
  (∀ e, view (.error e) = (8, e.code, 0, 0, 0) ∧ payload (.error e) = (none, [])) ∧
  (view .refused = (9, 0, 0, 0, 0) ∧ payload .refused = (none, [])) ∧
  ∀ o : OpOutcome, o.kind.toNat ≤ 9

/-! ## The buffer (10_state.md R10, R17; 20_memory.md) -/

/-- What an instruction leaves of the buffer's bytes, by offset (R10): `PUSH` writes at offset `LEN` only; `SKIP` and an
emitted frame move every byte down by what they remove from the head; `RST` leaves none; every other end of an instruction
leaves every byte where it is. -/
def Obligations.BufferBytesAreKept : Prop :=
  ∀ (i : Instr) (s t : State), exec i s = .next t →
    (∀ b, i = .push b → (∀ a, a ≠ s.level → t.readByte a = s.readByte a) ∧
      (s.full = false → t.readByte s.level = some b)) ∧
    (∀ n, i = .skip n → n ≤ s.level → ∀ a, t.readByte a = s.readByte (a + n)) ∧
    (∀ h k v, t.res = .frame h k v → ∀ a, t.readByte a = s.readByte (a + frameTotal h)) ∧
    (i = .rst → ∀ a, t.readByte a = none) ∧
    ((∀ b, i ≠ .push b) → (∀ n, i = .skip n → s.level < n) → i ≠ .rst → t.res.isFrame = false →
      ∀ a, t.readByte a = s.readByte a)

/-- `BUF[i]` is byte `CONSUMED + i` of the stream the host has pushed (R17): along every trace without `RST` the buffer is
the stream, extended by the bytes accepted, from `CONSUMED` on. -/
def Obligations.BufferIsTheStreamFromConsumed : Prop :=
  ∀ (is : List Instr) (s : State) (stream : List Byte), .rst ∉ is → s.consumed ≤ stream.length →
    s.buf = stream.drop s.consumed →
    (performAll is s).consumed ≤ (stream ++ accepted is s).length ∧
    (performAll is s).buf = (stream ++ accepted is s).drop (performAll is s).consumed

/-- The multi-byte header fields of a frame at the head of the buffer are big-endian (20_memory.md R32). -/
def Obligations.FieldsAreBigEndian : Prop :=
  ∀ (s : State) (h : Header), Header.ofBytes s.buf = some h →
    h.type.toNat = (byteAt s.buf 2).toNat * 256 + (byteAt s.buf 3).toNat ∧
    h.len.toNat = (byteAt s.buf 4).toNat * 2 ^ 24 + (byteAt s.buf 5).toNat * 2 ^ 16 +
      (byteAt s.buf 6).toNat * 2 ^ 8 + (byteAt s.buf 7).toNat

/-! ## The header codec (40_header_codec.md) -/

/-- `HUNPK s` (R71): the length test, the three checks in their order, the header; only `RES` is written. -/
def Obligations.HunpkFollowsItsPseudocode : Prop :=
  ∀ (b : List Byte) (s : State), exec (.hunpk b) s = .next { s with
    res :=
      if b.length < 8 then .error .tooShort
      else
        let ver := byteAt b 0
        let inv := byteAt b 1
        let type := BitVec.ofNat 16 ((byteAt b 2).toNat * 256 + (byteAt b 3).toNat)
        let len := BitVec.ofNat 32 ((byteAt b 4).toNat * 2 ^ 24 + (byteAt b 5).toNat * 2 ^ 16 +
          (byteAt b 6).toNat * 2 ^ 8 + (byteAt b 7).toNat)
        if ver ∉ s.cfg.versionCodes then .error .invalidProtocolVersion
        else if inv ≠ ~~~ver then .error .failedProtocolValidation
        else if type ∉ typeCodes then .error .invalidPayloadType
        else .header ⟨ver, inv, type, len⟩ }

/-- `HPK h` (R79): the three checks in their order, the 8 bytes; only `RES` is written; the bytes are driven on `OUT`, and no
byte on an error. -/
def Obligations.HpkFollowsItsPseudocode : Prop :=
  ∀ (h : Header) (s : State), exec (.hpk h) s = .next { s with
    res :=
      if h.ver ∉ s.cfg.versionCodes then .error .invalidProtocolVersion
      else if h.inv ≠ ~~~h.ver then .error .failedProtocolValidation
      else if h.type ∉ typeCodes then .error .invalidPayloadType
      else .bytes .hpk [h.ver, h.inv, h.type.extractLsb' 8 8, h.type.extractLsb' 0 8, h.len.extractLsb' 24 8,
        h.len.extractLsb' 16 8, h.len.extractLsb' 8 8, h.len.extractLsb' 0 8] } ∧
    (∀ b, (perform (.hpk h) s).res = .bytes .hpk b → (perform (.hpk h) s).out = b) ∧
    (∀ e, (perform (.hpk h) s).res = .error e → (perform (.hpk h) s).out = [])

/-- The round trip of the header codec, which the spec derives (R81): unpacking what is packed, packing what is unpacked, and
failing alike on a header record and its 8 bytes. -/
def Obligations.HeaderPackUnpackRoundTrip : Prop :=
  ∀ c : Params,
    (∀ h, hdrValid c h = true → ∃ b, hpk c h = .ok b ∧ b.length = 8 ∧ hunpk c b = .ok h) ∧
    (∀ b h, b.length = 8 → hunpk c b = .ok h → hpk c h = .ok b) ∧
    (∀ b h e, Header.ofBytes b = some h → (hunpk c b = .error e ↔ hpk c h = .error e))

/-- The sentinel pair needs no special case (R74): whatever the codes, a header whose check byte is not the complement is
never valid, and the complement of `0xFF` is `0x00`. -/
def Obligations.OnlyComplementPairsAreValid : Prop :=
  ∀ (c : Params) (b : List Byte) (h : Header), hunpk c b = .ok h →
    h.ver.toNat + h.inv.toNat = 255 ∧ h.ver ^^^ h.inv = 0xFF ∧ (h.ver = 0xFF → h.inv = 0x00)

/-- The encode side and the pure units leave everything but `RES` alone, every byte of memory included, and read neither
the buffer nor its level: their outcome is the same in every state of the same configuration (R23, R70). -/
def Obligations.PureOperationsTouchOnlyRes : Prop :=
  ∀ (i : Instr), (∃ b, i = .hunpk b) ∨ (∃ h, i = .hpk h) ∨ (∃ t, i = .dsp t) ∨ (∃ k, i = .dspinv k) ∨
      (∃ h kp v, i = .enc h kp v) →
    (∀ s t : State, exec i s = .next t →
      t = { s with res := t.res } ∧ ∀ a, t.readByte a = s.readByte a) ∧
    (∀ s s' : State, s.cfg = s'.cfg → (perform i s).res = (perform i s').res)

/-! ## The dispatcher (41_dispatcher.md) -/

/-- `DSP t` (R91): the route of a code of the table, `InvalidPayloadType` for every other value; only `RES` is written. -/
def Obligations.DspSelectsTheRoute : Prop :=
  ∀ (t : TypeCode) (s : State),
    (∀ k : Route, t = k.code → exec (.dsp t) s = .next { s with res := .route k }) ∧
    ((∀ k : Route, t ≠ k.code) → exec (.dsp t) s = .next { s with res := .error .invalidPayloadType })

/-- `DSPINV k` (R92): the code of the table's row; only `RES` is written. -/
def Obligations.DspinvGivesTheCode : Prop :=
  ∀ (k : Route) (s : State), exec (.dspinv k) s = .next { s with res := .code k.code } ∧
    typeCodes[k.index.toNat]? = some k.code

/-- The dispatcher is a bijection between the 16 codes and the 16 routes, and invalid outside the codes (R93). -/
def Obligations.DispatcherIsABijection : Prop :=
  (∀ k : Route, dsp (dspinv k) = .ok k) ∧ (∀ (t : TypeCode) (k : Route), dsp t = .ok k → dspinv k = t) ∧
  (∀ t u : TypeCode, t ∈ typeCodes → dsp t = dsp u → t = u) ∧
  (∀ t : TypeCode, t ∉ typeCodes → dsp t = .error .invalidPayloadType)

/-! ## The framing decoder (42_framing_decoder.md) -/

/-- `PUSH b` (R115): appended and `Done` while `LEN` differs from `CAP`, else `Refused` with nothing changed. -/
def Obligations.PushAppendsOrIsRefused : Prop :=
  ∀ (b : Byte) (s : State),
    (s.cfg.cap ≠ some s.buf.length → exec (.push b) s = .next { s with buf := s.buf ++ [b], res := .done }) ∧
    (s.cfg.cap = some s.buf.length → exec (.push b) s = .next { s with res := .refused })

/-- `SKIP n` (R117): the first `n` bytes leave and `Done` when there are `n`, else `Refused` with nothing changed. -/
def Obligations.SkipDiscardsFromTheHead : Prop :=
  ∀ (n : Nat) (s : State),
    (n ≤ s.buf.length →
      exec (.skip n) s = .next { s with buf := s.buf.drop n, consumed := s.consumed + n, res := .done }) ∧
    (s.buf.length < n → exec (.skip n) s = .next { s with res := .refused })

/-- `DEC` as its pseudocode has it, line by line (R102), in the terms of `hunpk`, `dsp` and `PCODEC`. -/
def Obligations.DecFollowsItsPseudocode : Prop :=
  ∀ s : State, exec .dec s = .next (
    let n := s.buf.length
    if n > s.cfg.maxFrameSize then { s with res := .error .messageTooLarge }
    else if n < 8 then
      if s.cfg.cap = some n then { s with res := .error .bufferTooSmall } else { s with res := .incomplete }
    else
      match hunpk s.cfg (s.buf.take 8) with
      | .error e => { s with res := .error e }
      | .ok h =>
        let total := 8 + h.len.toNat
        if total > s.cfg.maxFrameSize then { s with res := .error .messageTooLarge }
        else if n < total then
          if s.cfg.cap = some n then { s with res := .error .bufferTooSmall } else { s with res := .incomplete }
        else
          match dsp h.type with
          | .error e => { s with res := .error e }
          | .ok k =>
            match pcodec k ((s.buf.drop 8).take h.len.toNat) h with
            | .error e => { s with res := .error (portErrorName e) }
            | .ok p =>
              let adv := min total n
              { s with buf := s.buf.drop adv, consumed := s.consumed + adv, frames := s.frames + 1,
                       res := .frame h k p })

/-- Emit (R111): with a complete accepted frame at the head and at most `MAX_FRAME_SIZE` bytes buffered, `DEC` answers the
frame, the bytes after it become the buffer, and the counters move by its size and by one. -/
def Obligations.DecEmitsTheFrameAtTheHead : Prop :=
  ∀ (s : State) (f : GoodFrame) (rest : List Byte), f.Accepted s.cfg → s.buf = f.wire ++ rest →
    s.buf.length ≤ s.cfg.maxFrameSize →
    exec .dec s = .next { s with
      buf := rest, consumed := s.consumed + (8 + f.header.len.toNat), frames := s.frames + 1,
      res := .frame f.header f.route f.value }

/-- The sixteen frame kinds complete alike (R110, R111): the instruction of the route of an accepted frame, on a buffer that
begins with that frame, answers it and removes it; that is GenericNack, VehicleIdentificationRequest (plain, Eid, Vin),
VehicleAnnouncementMessage, RoutingActivationRequest and Response, AliveCheckRequest and Response, EntityStatusRequest and
Response, PowerInformationRequest and Response, DiagnosticMessage, DiagnosticMessageAck and DiagnosticMessageNack. -/
def Obligations.EveryFrameKindEmits : Prop :=
  ∀ (s : State) (f : GoodFrame) (rest : List Byte) (i : Instr), f.Accepted s.cfg → s.buf = f.wire ++ rest →
    s.buf.length ≤ s.cfg.maxFrameSize → i = Instr.ofRoute f.route f.header.ver f.header.inv f.header.len →
    exec i s = .next { s with
      buf := rest, consumed := s.consumed + (8 + f.header.len.toNat), frames := s.frames + 1,
      res := .frame f.header f.route f.value }

/-- Where a frame kind does not complete, in the order of R174: a buffer past `MAX_FRAME_SIZE`; fewer than 8 bytes, on a full
buffer and on another; a version that is no code; a check byte that is no complement; a declared size past `MAX_FRAME_SIZE`;
a frame not yet complete, on a full buffer and on another; a payload the codec rejects. In each case only `RES` changes. The
operands are the header, whatever the first 8 bytes of the buffer are, and a buffer may have fewer than 8 bytes: a step fetches
a frame kind in neither case, and what it then does is the model's choice (log entry 10). -/
def Obligations.FrameKindOtherEnds : Prop :=
  ∀ (k : Route) (ver inv : Byte) (len : PayloadLen) (s : State),
    let i := Instr.ofRoute k ver inv len
    let h : Header := ⟨ver, inv, k.code, len⟩
    let total := 8 + len.toNat
    let n := s.buf.length
    let ends := fun o => exec i s = .next { s with res := o }
    (s.cfg.maxFrameSize < n → ends (.error .messageTooLarge)) ∧
    (n ≤ s.cfg.maxFrameSize → n < 8 →
      (s.cfg.cap = some n → ends (.error .bufferTooSmall)) ∧ (s.cfg.cap ≠ some n → ends .incomplete)) ∧
    (n ≤ s.cfg.maxFrameSize → 8 ≤ n → ver ∉ s.cfg.versionCodes → ends (.error .invalidProtocolVersion)) ∧
    (n ≤ s.cfg.maxFrameSize → 8 ≤ n → ver ∈ s.cfg.versionCodes → inv ≠ ~~~ver →
      ends (.error .failedProtocolValidation)) ∧
    (n ≤ s.cfg.maxFrameSize → 8 ≤ n → ver ∈ s.cfg.versionCodes → inv = ~~~ver →
      (s.cfg.maxFrameSize < total → ends (.error .messageTooLarge)) ∧
      (total ≤ s.cfg.maxFrameSize → n < total → s.cfg.cap = some n → ends (.error .bufferTooSmall)) ∧
      (total ≤ s.cfg.maxFrameSize → n < total → s.cfg.cap ≠ some n → ends .incomplete) ∧
      (∀ e, total ≤ s.cfg.maxFrameSize → total ≤ n → pcodec k ((s.buf.drop 8).take len.toNat) h = .error e →
        ends (.error (portErrorName e))))

/-- What is presented on the payload ports (R22), and what becomes of it. Dispatch (R110): a `DEC` presents, on the route of the
header's type, exactly the `h.len` bytes after the header, and the header; the codec's error is raised with nothing else
changed, its value is emitted; a `DEC` that presents nothing emits nothing. The encode side (R133): an `ENC` that gives a frame
has presented its payload value on the port of its tag, and the bytes after the header are what that port's encoder gives;
one that presents nothing ends with `PayloadTypeValidation` or the packer's error; and one that presents a value does so on the
port of its tag alone, after packing the header, and ends with the frame or with `PayloadLengthValidation`. For a value that is
no operand of `ENC` (R131) or not structurally valid, the encode clauses are the model's choice (log entry 9). -/
def Obligations.PayloadPortCarriesTheSlice : Prop :=
  (∀ (s : State) (k : Route) (slice : List Byte) (h : Header), s.decPort = some (k, slice, h) →
    hunpk s.cfg (s.buf.take 8) = .ok h ∧ dsp h.type = .ok k ∧ slice = (s.buf.drop 8).take h.len.toNat ∧
    slice.length = h.len.toNat ∧
    (∀ e, pcodec k slice h = .error e → perform .dec s = { s with res := .error (portErrorName e) }) ∧
    (∀ v, pcodec k slice h = .ok v → (perform .dec s).res = .frame h k v)) ∧
  (∀ s : State, s.decPort = none → (perform .dec s).res.isFrame = false) ∧
  (∀ (s t : State) (h : Header) (kp : Route) (v : Payload), exec (.enc h kp v) s = .next t →
    (∀ f, t.res = .bytes .enc f → encPort s.cfg h kp v = some (kp, v) ∧ f.drop 8 = penc kp v) ∧
    (encPort s.cfg h kp v = none →
      t.res = .error .payloadTypeValidation ∨ ∃ e, hpk s.cfg h = .error e ∧ t.res = .error e) ∧
    (∀ j w, encPort s.cfg h kp v = some (j, w) → dsp h.type = .ok kp ∧ j = kp ∧ w = v ∧ hpk s.cfg h = .ok h.toBytes ∧
      (t.res = .bytes .enc (h.toBytes ++ penc j w) ∨ t.res = .error .payloadLengthValidation)))

/-- Exact consumption, which the spec derives (R118): what a `DEC` that emits a frame takes from the buffer is the packed
header and the payload slice, and the payload is what the route's codec gives for that slice. -/
def Obligations.EmittedFrameIsWhatIsRemoved : Prop :=
  ∀ (s t : State) (h : Header) (k : Route) (p : Payload), exec .dec s = .next t → t.res = .frame h k p →
    ∃ slice : List Byte, s.buf = h.toBytes ++ slice ++ t.buf ∧ slice.length = h.len.toNat ∧ hdrValid s.cfg h = true ∧
      h.type = k.code ∧ pcodec k slice h = .ok p ∧ t.consumed = s.consumed + (8 + h.len.toNat) ∧
      t.frames = s.frames + 1

/-- Reads have no side effects (R38): a `DEC` that does not emit a frame leaves everything but `RES`, and repeating it leaves
the same state; one that emits is not idempotent, since the buffer gets shorter by at least a header. -/
def Obligations.DecThatEmitsNothingIsIdempotent : Prop :=
  ∀ s t : State, exec .dec s = .next t →
    (t.res.isFrame = false → t = { s with res := t.res } ∧ exec .dec t = .next t) ∧
    (t.res.isFrame = true → t.level + 8 ≤ s.level)

/-- `DEC` looks at the first frame only, which the spec derives (R113): two states of one configuration with the same level,
the same first 8 bytes and, when these are a valid header, the same bytes of that frame, give the same outcome. -/
def Obligations.DecDependsOnTheFirstFrameOnly : Prop :=
  ∀ s t : State, s.cfg = t.cfg → s.buf.length = t.buf.length → s.buf.take 8 = t.buf.take 8 →
    (∀ h, hunpk s.cfg (s.buf.take 8) = .ok h → s.buf.take (frameTotal h) = t.buf.take (frameTotal h)) →
    (perform .dec s).res = (perform .dec t).res

/-- A bad header stays at the head, which the spec derives (R112, R182): with an unchanged level guard, `PUSH` does not help. -/
def Obligations.PushDoesNotClearABadHeader : Prop :=
  ∀ (s : State) (b : Byte) (e : ErrorName), 8 ≤ s.level → hunpk s.cfg (s.buf.take 8) = .error e →
    s.level < s.cfg.maxFrameSize →
    (perform .dec s).res = .error e ∧ (perform .dec (perform (.push b) s)).res = .error e

/-- Small capacities, which the spec derives from R11, R103 and R105 (R5, R211): below 8 bytes of capacity no frame is ever
emitted and a full buffer answers `BufferTooSmall`; up to `MAX_FRAME_SIZE` the guard on the buffer never fires, so that a
`MessageTooLarge` of `DEC` comes from the length its header declares. The invariant rules out the states no run reaches. -/
def Obligations.SmallCapacities : Prop :=
  ∀ (s : State) (n : Nat), s.Inv → s.cfg.cap = some n →
    (n < 8 → (perform .dec s).res = (if s.level = n then .error .bufferTooSmall else .incomplete)) ∧
    (n ≤ s.cfg.maxFrameSize → s.level ≤ s.cfg.maxFrameSize ∧
      ((perform .dec s).res = .error .messageTooLarge →
        8 ≤ s.level ∧ ∃ h, hunpk s.cfg (s.buf.take 8) = .ok h ∧ s.cfg.maxFrameSize < 8 + h.len.toNat))

/-- In the unbounded variant `BufferTooSmall` is never raised and no `PUSH` is refused (R114). -/
def Obligations.UnboundedBufferNeverFills : Prop :=
  ∀ (i : Instr) (s : State), s.cfg.cap = none →
    (perform i s).res ≠ .error .bufferTooSmall ∧ ∀ b, i = .push b → (perform i s).res = .done

/-- Independence from how bytes arrive, which the spec derives (R119): a host that offers the bytes of accepted frames and
then a proper part of one more, in any chunks, with `DEC` at any points, meeting its duties, and that goes on with `DEC` until
one answers no frame, has got exactly those frames, each once and in order; every other outcome of a `DEC` is `Incomplete`, the
last one too, so that none is an error; and the part is what the buffer holds. -/
def Obligations.ChunkingDoesNotMatter : Prop :=
  ∀ (s : State) (frames : List GoodFrame) (tail : List Byte) (is : List Instr), s.cfg.Valid → s.buf = [] →
    (∀ f ∈ frames, f.Accepted s.cfg) → PartialFrame s.cfg tail →
    offered is = frames.flatMap GoodFrame.wire ++ tail → DutiesMet (is ++ [.dec]) s →
    (performAll (is ++ [.dec]) s).res.isFrame = false →
    (outcomes (is ++ [.dec]) s).filter OpOutcome.isFrame = frames.map GoodFrame.outcome ∧
    (∀ o ∈ outcomes (is ++ [.dec]) s, o = .done ∨ o = .incomplete ∨ o.isFrame = true) ∧
    (performAll (is ++ [.dec]) s).res = .incomplete ∧
    (performAll (is ++ [.dec]) s).buf = tail

/-- `DRAIN` ends, which the spec derives (R61): within one `DEC` more than an eighth of the level, its outcomes are frames
followed by one outcome that is no frame. -/
def Obligations.DrainTerminates : Prop :=
  ∀ s : State, ∃ fs o, (drain (s.level / 8 + 1) s).1 = fs ++ [o] ∧ (∀ f ∈ fs, f.isFrame = true) ∧ o.isFrame = false ∧
    (drain (s.level / 8 + 1) s).2.res = o

/-- The states of R204 cover every state: fully decoded, awaiting data, failed, or about to emit a frame; a fully decoded
state has nothing left to skip; and an instance of any admissible configuration is fully decoded right after reset, its first
`DEC` answering `Incomplete` (R203). -/
def Obligations.DecClassifiesEveryState : Prop :=
  ∀ s : State, (FullyDecoded s ∨ AwaitingData s ∨ Failed s ∨ (perform .dec s).res.isFrame = true) ∧
    ¬ (Failed s ∧ (FullyDecoded s ∨ AwaitingData s)) ∧ (FullyDecoded s → (perform (.skip 1) s).res = .refused) ∧
    ∀ c : Params, c.Valid → FullyDecoded (State.resetWith c)

/-! ## The encoder (43_frame_encoder.md) -/

/-- `ENC h kp v` as its pseudocode has it (R131), in the terms of `dsp`, `hpk` and `PENC`; only `RES` is written; the frame is
driven on `OUT`, and no byte on an error. For a value that is no operand of `ENC` (R131) or not structurally valid, this is the
model's choice (log entry 9). -/
def Obligations.EncFollowsItsPseudocode : Prop :=
  ∀ (h : Header) (kp : Route) (v : Payload) (s : State), exec (.enc h kp v) s = .next { s with
    res :=
      if dsp h.type ≠ .ok kp then .error .payloadTypeValidation
      else
        match hpk s.cfg h with
        | .error e => .error e
        | .ok hb =>
          if (penc kp v).length ≠ h.len.toNat then .error .payloadLengthValidation
          else .bytes .enc (hb ++ penc kp v) } ∧
    (∀ f, (perform (.enc h kp v) s).res = .bytes .enc f → (perform (.enc h kp v) s).out = f ∧ f.length = 8 + h.len.toNat) ∧
    (∀ e, (perform (.enc h kp v) s).res = .error e → (perform (.enc h kp v) s).out = [])

/-- `ENC` completes on every consistent message: a valid header of the tag's type whose length is that of the payload bytes
gives the header's bytes followed by the payload's. For a value that is no operand of `ENC` (R131) or not structurally valid,
this is the model's choice (log entry 9). -/
def Obligations.EncEmitsConsistentMessages : Prop :=
  ∀ (h : Header) (kp : Route) (v : Payload) (s : State), hdrValid s.cfg h = true → h.type = kp.code →
    (penc kp v).length = h.len.toNat →
    exec (.enc h kp v) s = .next { s with res := .bytes .enc (h.toBytes ++ penc kp v) }

/-- What `ENC` guarantees about its output, which the spec derives (R137). For a value that is no operand of `ENC` (R131) or not
structurally valid, this is the model's choice (log entry 9). -/
def Obligations.EncOutputIsAValidFrame : Prop :=
  ∀ (h : Header) (kp : Route) (v : Payload) (s t : State) (f : List Byte), exec (.enc h kp v) s = .next t →
    t.res = .bytes .enc f →
    f.length = 8 + h.len.toNat ∧ hpk s.cfg h = .ok (f.take 8) ∧ hdrValid s.cfg h = true ∧
      hunpk s.cfg (f.take 8) = .ok h ∧ dsp h.type = .ok kp ∧ f.drop 8 = penc kp v ∧ t.out = f

/-- The errors `ENC` can report (R136, R171): never `InvalidPayloadType`. -/
def Obligations.EncReportsFourErrors : Prop :=
  ∀ (h : Header) (kp : Route) (v : Payload) (s : State) (e : ErrorName),
    (perform (.enc h kp v) s).res = .error e →
    e = .payloadTypeValidation ∨ e = .invalidProtocolVersion ∨ e = .failedProtocolValidation ∨
      e = .payloadLengthValidation

/-- The round trip through the whole block, which the spec derives (42_framing_decoder.md R122): a message `ENC` encodes,
within the limits of the decoder and accepted by its codec, pushed byte by byte into an empty buffer and decoded, run as host
operations by the machine's own step, gives back the message and an empty buffer. The queue they stand in is the model's own
(log entry 3). -/
def Obligations.EncodedMessageDecodesThroughTheBlock : Prop :=
  ∀ (s : State) (h : Header) (kp : Route) (v : Payload) (f : List Byte),
    (perform (.enc h kp v) s).res = .bytes .enc f → s.buf = [] → frameTotal h ≤ s.cfg.maxFrameSize →
    (∀ n ∈ s.cfg.cap, frameTotal h ≤ n) → pcodec kp (penc kp v) h = .ok v →
    Host.Core.run Sys2Proof.core (f.length + 1) { s with ops := presented (feed f ++ [.dec]) } = .next { s with
      buf := [], res := .frame h kp v, consumed := s.consumed + f.length, frames := s.frames + 1, ops := [] }

/-! ## The payload port (44_payload_port.md) -/

/-- The round trip of the payload codecs (R144), for every structurally valid value of each of the 16 variants and every
header whose length is that of its bytes. The representation of values is the model's (log entry 5). -/
def Obligations.PayloadRoundTrip : Prop :=
  ∀ (v : Payload) (h : Header), structurallyValid v = true → h.len.toNat = (penc v.route v).length →
    pcodec v.route (penc v.route v) h = .ok v

/-- `TooShort` exactly below the minimum length, for all 16 routes, which the spec derives (R143, R162), and the minimum
lengths of R145. -/
def Obligations.TooShortExactlyBelowMinimum : Prop :=
  Route.all.map minLen = [1, 0, 6, 17, 32, 7, 9, 0, 2, 0, 7, 0, 1, 4, 5, 5] ∧
  ∀ (k : Route) (s : List Byte) (h : Header), pcodec k s h = .error .tooShort ↔ s.length < minLen k

/-- On a payload without surplus bytes the only code error of a route is that of its own coded field (R142, R145): the nine
fields by route, VehicleAnnouncementMessage having two. The spec derives this pairing from the names (log entry 13). -/
def Obligations.CodeErrorsBelongToTheirRoute : Prop :=
  ∀ (k : Route) (s : List Byte) (h : Header) (f : CodedField), hasSurplus k s.length = false →
    pcodec k s h = .error (.invalid f) →
    (k = .genericNack ∧ f = .nackCode) ∨ (k = .routingActivationRequest ∧ f = .activationType) ∨
    (k = .routingActivationResponse ∧ f = .activationCode) ∨ (k = .powerInformationResponse ∧ f = .powerMode) ∨
    (k = .entityStatusResponse ∧ f = .nodeType) ∨ (k = .diagnosticMessageAck ∧ f = .diagnosticAckCode) ∨
    (k = .diagnosticMessageNack ∧ f = .diagnosticNackCode) ∨ (k = .vehicleAnnouncementMessage ∧ f = .actionCode) ∨
    (k = .vehicleAnnouncementMessage ∧ f = .syncStatus)

/-- VehicleAnnouncementMessage (R150): an accepted payload gives the fields at their offsets, and the sync status is present
exactly when the header declares the long variant. The places are the spec's derivation (log entry 13), the form of the value
the model's (log entry 5). -/
def Obligations.SyncStatusOnlyInTheLongVariant : Prop :=
  ∀ (s : List Byte) (h : Header) (v : Payload), s.length = h.len.toNat →
    pcodec .vehicleAnnouncementMessage s h = .ok v →
    v = .vehicleAnnouncementMessage (sliceOf s 0 17) (sliceOf s 17 19) (sliceOf s 19 25) (sliceOf s 25 31) (byteAt s 31)
      (if h.len.toNat = 33 then some (byteAt s 32) else none)

/-- DiagnosticMessage (R159): from 4 bytes on the result is a value, the two addresses and a body that is the rest of the
slice, 4 bytes shorter than the declared length; below 4 bytes it is `TooShort`. The form of the value is the model's (log
entry 5), the places of the addresses and the body are the spec's derivation (log entry 13). -/
def Obligations.DiagnosticMessageTakesTheRest : Prop :=
  ∀ (s : List Byte) (h : Header),
    (4 ≤ s.length →
      pcodec .diagnosticMessage s h = .ok (.diagnosticMessage (sliceOf s 0 2) (sliceOf s 2 4) (s.drop 4)) ∧
      (s.length = h.len.toNat → (s.drop 4).length = h.len.toNat - 4)) ∧
    (s.length < 4 → pcodec .diagnosticMessage s h = .error .tooShort)

/-- The payload fields at their offsets, for the other routes with fields (R146, R148, R149, R151, R152, R154, R156, R158, R160,
R161): at exactly the minimum length the route's own code check, where it has a coded field, decides on the byte at that
field's place between the value and the field's error, and a route without one gives the value; and whatever payload is
accepted gives those fields. The places are the spec's derivation (log entry 13), the form of the value the model's (log entry
5), and that surplus bytes are no part of it the model's choice (log entry 7). -/
def Obligations.PayloadFieldsLieAtTheirOffsets : Prop :=
  ∀ (s : List Byte) (h : Header),
    let byte := fun i => byteAt s i
    let bytes := fun i j => sliceOf s i j
    let plain := fun (k : Route) (v : Payload) =>
      (s.length = minLen k → pcodec k s h = .ok v) ∧ ∀ w, pcodec k s h = .ok w → w = v
    let coded := fun (k : Route) (f : CodedField) (b : Byte) (v : Payload) =>
      (s.length = minLen k → pcodec k s h = if codeOk f b then .ok v else .error (.invalid f)) ∧
        ∀ w, pcodec k s h = .ok w → codeOk f b = true ∧ w = v
    coded .genericNack .nackCode (byte 0) (.genericNack (byte 0)) ∧
    plain .vehicleIdentificationRequestEid (.vehicleIdentificationRequestEid (bytes 0 6)) ∧
    plain .vehicleIdentificationRequestVin (.vehicleIdentificationRequestVin (bytes 0 17)) ∧
    coded .routingActivationRequest .activationType (byte 2)
      (.routingActivationRequest (bytes 0 2) (byte 2) (bytes 3 7)) ∧
    coded .routingActivationResponse .activationCode (byte 4)
      (.routingActivationResponse (bytes 0 2) (bytes 2 4) (byte 4) (bytes 5 9)) ∧
    plain .aliveCheckResponse (.aliveCheckResponse (bytes 0 2)) ∧
    coded .entityStatusResponse .nodeType (byte 0) (.entityStatusResponse (byte 0) (byte 1) (byte 2) (bytes 3 7)) ∧
    coded .powerInformationResponse .powerMode (byte 0) (.powerInformationResponse (byte 0)) ∧
    coded .diagnosticMessageAck .diagnosticAckCode (byte 4) (.diagnosticMessageAck (bytes 0 2) (bytes 2 4) (byte 4)) ∧
    coded .diagnosticMessageNack .diagnosticNackCode (byte 4) (.diagnosticMessageNack (bytes 0 2) (bytes 2 4) (byte 4))

/-- The kinds with an empty payload accept it (R120, R147, R153, R155, R157), and the three verdicts on codes that the spec
evidences: ack code `0x00` is valid and `0x42` is not (R160), activation type `0x00` is valid (R151). The form of a value is the
model's (log entry 5), the places of the fields are the spec's derivation (log entry 13). -/
def Obligations.EvidencedPayloads : Prop :=
  ∀ h : Header, pcodec .vehicleIdentificationRequest [] h = .ok .vehicleIdentificationRequest ∧
    pcodec .aliveCheckRequest [] h = .ok .aliveCheckRequest ∧
    pcodec .entityStatusRequest [] h = .ok .entityStatusRequest ∧
    pcodec .powerInformationRequest [] h = .ok .powerInformationRequest ∧
    (∀ a b c d : Byte, pcodec .diagnosticMessageAck [a, b, c, d, 0x00] h =
        .ok (.diagnosticMessageAck [a, b] [c, d] 0x00) ∧
      pcodec .diagnosticMessageAck [a, b, c, d, 0x42] h = .error (.invalid .diagnosticAckCode)) ∧
    ∀ a b c d e f : Byte, pcodec .routingActivationRequest [a, b, 0x00, c, d, e, f] h =
      .ok (.routingActivationRequest [a, b] 0x00 [c, d, e, f])

/-! ## Errors (60_exceptions.md) -/

/-- Taking an error (R178): whatever the operation, an `Error` outcome changes nothing but `RES`, every byte of memory
included, and no byte is driven on `OUT`. -/
def Obligations.ErrorChangesOnlyRes : Prop :=
  ∀ (i : Instr) (s t : State) (e : ErrorName), exec i s = .next t → t.res = .error e →
    t = { s with res := .error e } ∧ (∀ a, t.readByte a = s.readByte a) ∧ t.out = []

/-- An error carries no auxiliary value (R179): the kind is `Error`, the code is the error's, every other field is 0 or
empty; and the code, never 0, tells which error it is (R60). -/
def Obligations.ErrorCarriesOnlyItsName : Prop :=
  ∀ e : ErrorName, let o := OpOutcome.error e
    o.kind = 8 ∧ o.errField = e.code ∧ o.hdrField = 0 ∧ o.routeField = 0 ∧ o.codeField = 0 ∧
      o.payloadValue = none ∧ o.encodedFrame = [] ∧ e.code ≠ 0 ∧
      ∀ f : ErrorName, (OpOutcome.error f).errField = o.errField → f = e

/-- Every operation, in every state, answers a next state with one of the outcomes listed for it (R177, with the table of
R58); the frame kinds with those of `DEC`. -/
def Obligations.OutcomeKindsByOperation : Prop :=
  ∀ (i : Instr) (s : State), ∃ t, exec i s = .next t ∧
    let o := t.res
    match i with
    | .rst => o = .done
    | .push _ => o = .done ∨ o = .refused
    | .skip _ => o = .done ∨ o = .refused
    | .hunpk _ => (∃ h, o = .header h) ∨ ∃ e, o = .error e
    | .hpk _ => (∃ b, o = .bytes .hpk b) ∨ ∃ e, o = .error e
    | .dsp _ => (∃ k, o = .route k) ∨ ∃ e, o = .error e
    | .dspinv _ => ∃ t, o = .code t
    | .enc _ _ _ => (∃ b, o = .bytes .enc b) ∨ ∃ e, o = .error e
    | _ => o = .incomplete ∨ (∃ h k p, o = .frame h k p) ∨ ∃ e, o = .error e

/-- `Refused` (R189): it is the outcome of a `PUSH` on a full buffer, of a `SKIP` past `LEN`, and of a step on an unassigned
select code `1001` to `1111`, of no other operation, and it changes no state but `RES`; the operation a step performs has
left the model's queue (log entry 3). -/
def Obligations.RefusedMeansNotEnabled : Prop :=
  (∀ (i : Instr) (s t : State), exec i s = .next t →
    (t.res = .refused ↔ (∃ b, i = .push b ∧ s.full = true) ∨ ∃ n, i = .skip n ∧ s.level < n) ∧
    (t.res = .refused → t = { s with res := .refused })) ∧
  ∀ (s : State) (p : OpPort) (rest : List OpPort), s.ops = p :: rest → 0b1001 ≤ p.sel.toNat →
    step s = .next { s with ops := rest, res := .refused }
end

