-- ==== Sys2Proof/Laws/State.lean ====
section
/-! SUPPORT. Laws/State.lean: one lemma per field per update of the state. -/

namespace Sys2Proof.Machine

variable (s : State) (o : OpOutcome) (e : ErrorName) (b : Byte) (n : Nat) (rest : List OpPort)

@[simp] theorem State.answer_cfg : (s.answer o).cfg = s.cfg := rfl
@[simp] theorem State.answer_buf : (s.answer o).buf = s.buf := rfl
@[simp] theorem State.answer_res : (s.answer o).res = o := rfl
@[simp] theorem State.answer_consumed : (s.answer o).consumed = s.consumed := rfl
@[simp] theorem State.answer_frames : (s.answer o).frames = s.frames := rfl
@[simp] theorem State.answer_ops : (s.answer o).ops = s.ops := rfl

@[simp] theorem State.raise_cfg : (s.raise e).cfg = s.cfg := rfl
@[simp] theorem State.raise_buf : (s.raise e).buf = s.buf := rfl
@[simp] theorem State.raise_res : (s.raise e).res = .error e := rfl
@[simp] theorem State.raise_consumed : (s.raise e).consumed = s.consumed := rfl
@[simp] theorem State.raise_frames : (s.raise e).frames = s.frames := rfl
@[simp] theorem State.raise_ops : (s.raise e).ops = s.ops := rfl

@[simp] theorem State.appendByte_cfg : (s.appendByte b).cfg = s.cfg := rfl
@[simp] theorem State.appendByte_buf : (s.appendByte b).buf = s.buf ++ [b] := rfl
@[simp] theorem State.appendByte_res : (s.appendByte b).res = s.res := rfl
@[simp] theorem State.appendByte_consumed : (s.appendByte b).consumed = s.consumed := rfl
@[simp] theorem State.appendByte_frames : (s.appendByte b).frames = s.frames := rfl
@[simp] theorem State.appendByte_ops : (s.appendByte b).ops = s.ops := rfl

@[simp] theorem State.removeHead_cfg : (s.removeHead n).cfg = s.cfg := rfl
@[simp] theorem State.removeHead_buf : (s.removeHead n).buf = s.buf.drop n := rfl
@[simp] theorem State.removeHead_res : (s.removeHead n).res = s.res := rfl
@[simp] theorem State.removeHead_consumed : (s.removeHead n).consumed = s.consumed + n := rfl
@[simp] theorem State.removeHead_frames : (s.removeHead n).frames = s.frames := rfl
@[simp] theorem State.removeHead_ops : (s.removeHead n).ops = s.ops := rfl

@[simp] theorem State.countFrame_cfg : s.countFrame.cfg = s.cfg := rfl
@[simp] theorem State.countFrame_buf : s.countFrame.buf = s.buf := rfl
@[simp] theorem State.countFrame_res : s.countFrame.res = s.res := rfl
@[simp] theorem State.countFrame_consumed : s.countFrame.consumed = s.consumed := rfl
@[simp] theorem State.countFrame_frames : s.countFrame.frames = s.frames + 1 := rfl
@[simp] theorem State.countFrame_ops : s.countFrame.ops = s.ops := rfl

@[simp] theorem State.discardAll_cfg : s.discardAll.cfg = s.cfg := rfl
@[simp] theorem State.discardAll_buf : s.discardAll.buf = [] := rfl
@[simp] theorem State.discardAll_res : s.discardAll.res = s.res := rfl
@[simp] theorem State.discardAll_consumed : s.discardAll.consumed = 0 := rfl
@[simp] theorem State.discardAll_frames : s.discardAll.frames = 0 := rfl
@[simp] theorem State.discardAll_ops : s.discardAll.ops = s.ops := rfl

@[simp] theorem State.takeOp_cfg : (s.takeOp rest).cfg = s.cfg := rfl
@[simp] theorem State.takeOp_buf : (s.takeOp rest).buf = s.buf := rfl
@[simp] theorem State.takeOp_res : (s.takeOp rest).res = s.res := rfl
@[simp] theorem State.takeOp_consumed : (s.takeOp rest).consumed = s.consumed := rfl
@[simp] theorem State.takeOp_frames : (s.takeOp rest).frames = s.frames := rfl
@[simp] theorem State.takeOp_ops : (s.takeOp rest).ops = rest := rfl

@[simp] theorem State.answer_answer (p : OpOutcome) : (s.answer o).answer p = s.answer p := rfl

@[simp] theorem State.resetWith_cfg (c : Params) : (State.resetWith c).cfg = c := rfl
@[simp] theorem State.resetWith_buf (c : Params) : (State.resetWith c).buf = [] := rfl
@[simp] theorem State.resetWith_res (c : Params) : (State.resetWith c).res = .none := rfl
@[simp] theorem State.resetWith_consumed (c : Params) : (State.resetWith c).consumed = 0 := rfl
@[simp] theorem State.resetWith_frames (c : Params) : (State.resetWith c).frames = 0 := rfl
@[simp] theorem State.resetWith_ops (c : Params) : (State.resetWith c).ops = [] := rfl

end Sys2Proof.Machine
end

