-- ==== Sys2Proof/Laws/Ops.lean ====
section
/-! SUPPORT. Laws/Ops.lean: what the shared operations do: capacity, slices, the memory view of the buffer, the header checks
and the type table. -/

namespace Sys2Proof

theorem Route.mem_all (k : Route) : k ∈ Route.all := by cases k <;> decide

theorem Route.ofCode_code (k : Route) : Route.ofCode k.code = some k := by cases k <;> rfl

theorem Route.code_of_ofCode {t : TypeCode} {k : Route} (h : Route.ofCode t = some k) : k.code = t := by
  simpa using List.find?_some h

theorem Route.ofCode_eq_some_iff {t : TypeCode} {k : Route} : Route.ofCode t = some k ↔ t = k.code :=
  ⟨fun h => (Route.code_of_ofCode h).symm, fun h => h ▸ Route.ofCode_code k⟩

theorem mem_typeCodes_iff {t : TypeCode} : t ∈ typeCodes ↔ ∃ k : Route, t = k.code := by
  simp only [typeCodes, List.mem_map]
  exact ⟨fun ⟨k, _, h⟩ => ⟨k, h.symm⟩, fun ⟨k, h⟩ => ⟨k, k.mem_all, h.symm⟩⟩

/-! ## Header bytes -/

theorem Header.ofBytes_eq_none_iff (l : List Byte) : Header.ofBytes l = none ↔ l.length < 8 := by
  match l with
  | [] | [_] | [_, _] | [_, _, _] | [_, _, _, _] | [_, _, _, _, _] | [_, _, _, _, _, _] | [_, _, _, _, _, _, _] =>
    simp [Header.ofBytes]
  | _ :: _ :: _ :: _ :: _ :: _ :: _ :: _ :: _ => simp [Header.ofBytes]

theorem Header.ofBytes_append {l m : List Byte} (h : 8 ≤ l.length) : Header.ofBytes (l ++ m) = Header.ofBytes l := by
  match l, h with
  | _ :: _ :: _ :: _ :: _ :: _ :: _ :: _ :: _, _ => rfl

theorem Header.ofBytes_take (l : List Byte) (n : Nat) (hn : 8 ≤ n) : Header.ofBytes (l.take n) = Header.ofBytes l := by
  rcases Nat.lt_or_ge l.length 8 with h | h
  · rw [(Header.ofBytes_eq_none_iff l).2 h, Header.ofBytes_eq_none_iff]
    simp; omega
  · conv_rhs => rw [← List.take_append_drop n l]
    rw [Header.ofBytes_append]
    simp; omega

@[simp] theorem Header.toBytes_length (h : Header) : h.toBytes.length = 8 := rfl

end Sys2Proof

namespace Sys2Proof.Machine

/-! ## Capacity -/

theorem atCapacity_iff {c : Params} {n : Nat} : atCapacity c n = true ↔ c.cap = some n := by simp [atCapacity]

theorem needMoreData_cases (c : Params) (n : Nat) :
    (c.cap = some n ∧ needMoreData c n = .error .bufferTooSmall) ∨ (c.cap ≠ some n ∧ needMoreData c n = .incomplete) := by
  by_cases h : c.cap = some n <;> simp [needMoreData, atCapacity, h]

/-! ## Slices and bytes -/

@[simp] theorem sliceOf_length (l : List Byte) (i j : Nat) : (sliceOf l i j).length = min (j - i) (l.length - i) := by
  simp [sliceOf]

@[simp] theorem sliceOf_zero (l : List Byte) (j : Nat) : sliceOf l 0 j = l.take j := by simp [sliceOf]

theorem State.readByte_answer (s : State) (o : OpOutcome) (a : Nat) : (s.answer o).readByte a = s.readByte a := rfl

theorem State.readByte_appendByte_of_ne (s : State) (b : Byte) (a : Nat) (h : a ≠ s.level) :
    (s.appendByte b).readByte a = s.readByte a := by
  simp only [State.readByte, State.appendByte_buf, State.level] at *
  rcases Nat.lt_or_gt_of_ne h with h | h
  · rw [List.getElem?_append_left h]
  · rw [List.getElem?_eq_none (by simp; omega), List.getElem?_eq_none (by omega)]

theorem State.readByte_removeHead (s : State) (n a : Nat) : (s.removeHead n).readByte a = s.readByte (a + n) := by
  simp [State.readByte, Nat.add_comm]

/-! ## The memory view -/

theorem cellsFrom_wf (base : Nat) (l : List Byte) : cellsWf base (cellsFrom base l) = true := by
  induction l generalizing base with
  | nil => rfl
  | cons b rest ih => simp [cellsFrom, cellsWf, ih]

/-- Every buffer, whatever operation made it, is a canonical memory. -/
theorem State.memory_wf (s : State) : Memory.wf s.memory := cellsFrom_wf 0 s.buf

theorem State.memory_wf_appendByte (s : State) (b : Byte) : Memory.wf (s.appendByte b).memory := State.memory_wf _
theorem State.memory_wf_removeHead (s : State) (n : Nat) : Memory.wf (s.removeHead n).memory := State.memory_wf _
theorem State.memory_wf_discardAll (s : State) : Memory.wf s.discardAll.memory := State.memory_wf _
theorem State.memory_wf_reset : Memory.wf State.reset.memory := State.memory_wf _

theorem cellsFrom_read (base a : Nat) (l : List Byte) : Memory.read (cellsFrom base l) (base + a) = l[a]? := by
  induction l generalizing base a with
  | nil => rfl
  | cons b rest ih =>
    cases a with
    | zero => simp [cellsFrom, Memory.read]
    | succ a =>
      have := ih (base + 1) a
      rw [show base + (a + 1) = base + 1 + a by omega]
      simpa [cellsFrom, Memory.read, List.find?_cons, show base ≠ base + 1 + a by omega] using this

/-- Reading the memory view is reading the buffer. -/
theorem State.memory_read (s : State) (a : Nat) : Memory.read s.memory a = s.readByte a := by
  simpa [State.memory, State.readByte] using cellsFrom_read 0 a s.buf

/-- A memory in canonical form is fixed by what it reads as: equal memories are equal data. -/
theorem State.memory_injective {s t : State} (h : s.memory = t.memory) : s.buf = t.buf := by
  apply List.ext_getElem?
  intro a
  have := congrArg (fun m => Memory.read m a) h
  simpa [State.memory_read, State.readByte] using this

/-! ## The header checks -/

theorem headerCheck_ok {c : Params} {h g : Header} (hg : headerCheck c h = .ok g) : g = h ∧ hdrValid c h = true := by
  unfold headerCheck at hg
  split at hg
  · cases hg
  · split at hg
    · cases hg
    · split at hg
      · cases hg
      · injection hg with hg
        exact ⟨hg.symm, by simp_all [hdrValid]⟩

theorem headerCheck_of_valid {c : Params} {h : Header} (hv : hdrValid c h = true) : headerCheck c h = .ok h := by
  simp only [hdrValid, Bool.and_eq_true] at hv
  simp [headerCheck, hv]

theorem hdrValid_iff {c : Params} {h : Header} :
    hdrValid c h = true ↔ h.ver ∈ c.versionCodes ∧ h.inv = ~~~h.ver ∧ h.type ∈ typeCodes := by
  simp [hdrValid, verValid, invValid, typeValid, and_assoc]

/-- The four ends of the header checks, in their order. -/
theorem headerCheck_cases (c : Params) (h : Header) :
    (h.ver ∉ c.versionCodes ∧ headerCheck c h = .error .invalidProtocolVersion) ∨
    (h.ver ∈ c.versionCodes ∧ h.inv ≠ ~~~h.ver ∧ headerCheck c h = .error .failedProtocolValidation) ∨
    (h.ver ∈ c.versionCodes ∧ h.inv = ~~~h.ver ∧ h.type ∉ typeCodes ∧ headerCheck c h = .error .invalidPayloadType) ∨
    (hdrValid c h = true ∧ headerCheck c h = .ok h) := by
  by_cases h1 : h.ver ∈ c.versionCodes <;> by_cases h2 : h.inv = ~~~h.ver <;> by_cases h3 : h.type ∈ typeCodes <;>
    simp [headerCheck, verValid, invValid, typeValid, hdrValid_iff, h1, h2, h3]

end Sys2Proof.Machine
end

