-- ==== Sys2Proof/Laws/Exec.lean ====
section
/-! SUPPORT. Laws/Exec.lean: what each operation can do, said once: the phases and ends of `DEC`, and the state each
instruction leaves. -/

namespace Sys2Proof.Machine

/-! ## The dispatcher, the header codec -/

theorem dsp_ok_iff {t : TypeCode} {k : Route} : dsp t = .ok k ↔ t = k.code := by
  rw [← Route.ofCode_eq_some_iff]
  unfold dsp
  split <;> rename_i h <;> simp [h]

theorem dsp_code (k : Route) : dsp k.code = .ok k := dsp_ok_iff.2 rfl

theorem dsp_of_not_mem {t : TypeCode} (h : t ∉ typeCodes) : dsp t = .error .invalidPayloadType := by
  unfold dsp
  split
  · exact absurd (mem_typeCodes_iff.2 ⟨_, Route.ofCode_eq_some_iff.1 ‹_›⟩) h
  · rfl

/-- A valid header has a route. -/
theorem route_of_valid {c : Params} {h : Header} (hv : hdrValid c h = true) : ∃ k : Route, h.type = k.code :=
  mem_typeCodes_iff.1 (hdrValid_iff.1 hv).2.2

theorem hunpk_of_short {c : Params} {l : List Byte} (h : l.length < 8) : hunpk c l = .error .tooShort := by
  simp [hunpk, (Header.ofBytes_eq_none_iff l).2 h]

theorem hunpk_of_ofBytes {c : Params} {l : List Byte} {h : Header} (hl : Header.ofBytes l = some h) :
    hunpk c l = headerCheck c h := by simp [hunpk, hl]

theorem hunpk_ok {c : Params} {l : List Byte} {h : Header} (hh : hunpk c l = .ok h) :
    Header.ofBytes l = some h ∧ hdrValid c h = true := by
  unfold hunpk at hh
  split at hh
  · cases hh
  · obtain ⟨rfl, hv⟩ := headerCheck_ok hh
    exact ⟨‹_›, hv⟩

/-! ## `DEC` -/

/-- Every end of the phases of a `DEC`, each with the conditions under which it is reached (R101). -/
theorem decPhase_cases (c : Params) (buf : List Byte) (parsed : Except ErrorName Header) :
    (c.maxFrameSize < buf.length ∧ decPhase c buf parsed = .report (.error .messageTooLarge)) ∨
    (buf.length ≤ c.maxFrameSize ∧ buf.length < 8 ∧ decPhase c buf parsed = .report (needMoreData c buf.length)) ∨
    (∃ e, buf.length ≤ c.maxFrameSize ∧ 8 ≤ buf.length ∧ parsed = .error e ∧
      decPhase c buf parsed = .report (.error e)) ∨
    (∃ h, buf.length ≤ c.maxFrameSize ∧ 8 ≤ buf.length ∧ parsed = .ok h ∧ c.maxFrameSize < frameTotal h ∧
      decPhase c buf parsed = .report (.error .messageTooLarge)) ∨
    (∃ h, buf.length ≤ c.maxFrameSize ∧ 8 ≤ buf.length ∧ parsed = .ok h ∧ frameTotal h ≤ c.maxFrameSize ∧
      buf.length < frameTotal h ∧ decPhase c buf parsed = .report (needMoreData c buf.length)) ∨
    (∃ h e, buf.length ≤ c.maxFrameSize ∧ parsed = .ok h ∧ frameTotal h ≤ c.maxFrameSize ∧
      frameTotal h ≤ buf.length ∧ dsp h.type = .error e ∧ decPhase c buf parsed = .report (.error e)) ∨
    (∃ h k, buf.length ≤ c.maxFrameSize ∧ parsed = .ok h ∧ frameTotal h ≤ c.maxFrameSize ∧
      frameTotal h ≤ buf.length ∧ dsp h.type = .ok k ∧
      decPhase c buf parsed = .dispatch h k (sliceOf buf 8 (frameTotal h))) := by
  unfold decPhase
  rcases Nat.lt_or_ge c.maxFrameSize buf.length with h1 | h1
  · exact .inl ⟨h1, by simp [h1]⟩
  rcases Nat.lt_or_ge buf.length 8 with h2 | h2
  · exact .inr (.inl ⟨h1, h2, by simp [h2, Nat.not_lt.2 h1]⟩)
  cases parsed with
  | error e => exact .inr (.inr (.inl ⟨e, h1, h2, rfl, by simp [Nat.not_lt.2 h1, Nat.not_lt.2 h2]⟩))
  | ok h =>
    rcases Nat.lt_or_ge c.maxFrameSize (frameTotal h) with h3 | h3
    · exact .inr (.inr (.inr (.inl ⟨h, h1, h2, rfl, h3, by simp [Nat.not_lt.2 h1, Nat.not_lt.2 h2, h3]⟩)))
    rcases Nat.lt_or_ge buf.length (frameTotal h) with h4 | h4
    · exact .inr (.inr (.inr (.inr (.inl ⟨h, h1, h2, rfl, h3, h4, by
        simp [Nat.not_lt.2 h1, Nat.not_lt.2 h2, Nat.not_lt.2 h3, h4]⟩))))
    cases h5 : dsp h.type with
    | error e => exact .inr (.inr (.inr (.inr (.inr (.inl ⟨h, e, h1, rfl, h3, h4, h5, by
        simp [Nat.not_lt.2 h1, Nat.not_lt.2 h2, Nat.not_lt.2 h3, Nat.not_lt.2 h4, h5]⟩)))))
    | ok k => exact .inr (.inr (.inr (.inr (.inr (.inr ⟨h, k, h1, rfl, h3, h4, h5, by
        simp [Nat.not_lt.2 h1, Nat.not_lt.2 h2, Nat.not_lt.2 h3, Nat.not_lt.2 h4, h5]⟩)))))

/-- Dispatch is reached only with a complete frame, and presents its slice. -/
theorem decPhase_dispatch {c : Params} {buf : List Byte} {parsed : Except ErrorName Header} {h : Header} {k : Route}
    {slice : List Byte} (hd : decPhase c buf parsed = .dispatch h k slice) :
    buf.length ≤ c.maxFrameSize ∧ parsed = .ok h ∧ frameTotal h ≤ c.maxFrameSize ∧ frameTotal h ≤ buf.length ∧
      h.type = k.code ∧ slice = sliceOf buf 8 (frameTotal h) := by
  rcases decPhase_cases c buf parsed with ⟨-, e⟩ | ⟨-, -, e⟩ | ⟨_, -, -, -, e⟩ | ⟨_, -, -, -, -, e⟩ | ⟨_, -, -, -, -, -, e⟩ |
    ⟨_, _, -, -, -, -, -, e⟩ | ⟨g, j, h1, h2, h3, h4, h5, e⟩ <;> rw [e] at hd <;> cases hd
  exact ⟨h1, h2, h3, h4, dsp_ok_iff.1 h5, rfl⟩

/-- No report of a `DEC` is a frame. -/
theorem decPhase_report_not_frame {c : Params} {buf : List Byte} {parsed : Except ErrorName Header} {o : OpOutcome}
    (hr : decPhase c buf parsed = .report o) : o = .incomplete ∨ ∃ e, o = .error e := by
  have nm := needMoreData_cases c buf.length
  rcases decPhase_cases c buf parsed with ⟨-, e⟩ | ⟨-, -, e⟩ | ⟨_, -, -, -, e⟩ | ⟨_, -, -, -, -, e⟩ | ⟨_, -, -, -, -, -, e⟩ |
    ⟨_, _, -, -, -, -, -, e⟩ | ⟨_, _, -, -, -, -, -, e⟩ <;> rw [e] at hr <;> cases hr
  · exact .inr ⟨_, rfl⟩
  · rcases nm with ⟨-, h⟩ | ⟨-, h⟩ <;> rw [h] <;> simp
  · exact .inr ⟨_, rfl⟩
  · exact .inr ⟨_, rfl⟩
  · rcases nm with ⟨-, h⟩ | ⟨-, h⟩ <;> rw [h] <;> simp
  · exact .inr ⟨_, rfl⟩

/-- The three ways a `DEC` ends: a report, a payload error, an emitted frame. -/
theorem finishDec_cases (p : DecPhase) (s : State) :
    (∃ o, p = .report o ∧ finishDec p s = s.answer o) ∨
    (∃ h k slice e, p = .dispatch h k slice ∧ pcodec k slice h = .error e ∧
      finishDec p s = s.raise (portErrorName e)) ∨
    (∃ h k slice v, p = .dispatch h k slice ∧ pcodec k slice h = .ok v ∧ finishDec p s = emitFrame h k v s) := by
  cases p with
  | report o => exact .inl ⟨o, rfl, rfl⟩
  | dispatch h k slice =>
    cases hp : pcodec k slice h with
    | error e => exact .inr (.inl ⟨h, k, slice, e, rfl, hp, by simp [finishDec, hp]⟩)
    | ok v => exact .inr (.inr ⟨h, k, slice, v, rfl, hp, by simp [finishDec, hp]⟩)

/-- Emit, when the frame is complete, removes exactly the frame (R111). -/
theorem emitFrame_of_complete {h : Header} {k : Route} {v : Payload} {s : State} (hc : frameTotal h ≤ s.level) :
    emitFrame h k v s = { s with
      buf := s.buf.drop (frameTotal h), consumed := s.consumed + frameTotal h, frames := s.frames + 1,
      res := .frame h k v } := by
  simp [emitFrame, State.removeHead, State.countFrame, State.answer, Nat.min_eq_left hc]

/-! ## The state each instruction leaves -/

/-- The frame kind of a route runs its frame, its type code being the route's. -/
theorem exec_ofRoute (k : Route) (ver inv : Byte) (len : PayloadLen) (s : State) :
    exec (Instr.ofRoute k ver inv len) s = .next (runFrame ⟨ver, inv, k.code, len⟩ s) := by cases k <;> rfl

/-- Every instruction is a host operation or the frame kind of one route. -/
theorem instr_cases (i : Instr) :
    (∃ p, encode i = .cmd p) ∨ ∃ k ver inv len, i = Instr.ofRoute k ver inv len := by
  cases i
  case rst | push | dec | skip | hunpk | hpk | dsp | dspinv | enc => exact .inl ⟨_, rfl⟩
  case genericNack a b l => exact .inr ⟨.genericNack, a, b, l, rfl⟩
  case vehicleIdentificationRequest a b l => exact .inr ⟨.vehicleIdentificationRequest, a, b, l, rfl⟩
  case vehicleIdentificationRequestEid a b l => exact .inr ⟨.vehicleIdentificationRequestEid, a, b, l, rfl⟩
  case vehicleIdentificationRequestVin a b l => exact .inr ⟨.vehicleIdentificationRequestVin, a, b, l, rfl⟩
  case vehicleAnnouncementMessage a b l => exact .inr ⟨.vehicleAnnouncementMessage, a, b, l, rfl⟩
  case routingActivationRequest a b l => exact .inr ⟨.routingActivationRequest, a, b, l, rfl⟩
  case routingActivationResponse a b l => exact .inr ⟨.routingActivationResponse, a, b, l, rfl⟩
  case aliveCheckRequest a b l => exact .inr ⟨.aliveCheckRequest, a, b, l, rfl⟩
  case aliveCheckResponse a b l => exact .inr ⟨.aliveCheckResponse, a, b, l, rfl⟩
  case entityStatusRequest a b l => exact .inr ⟨.entityStatusRequest, a, b, l, rfl⟩
  case entityStatusResponse a b l => exact .inr ⟨.entityStatusResponse, a, b, l, rfl⟩
  case powerInformationRequest a b l => exact .inr ⟨.powerInformationRequest, a, b, l, rfl⟩
  case powerInformationResponse a b l => exact .inr ⟨.powerInformationResponse, a, b, l, rfl⟩
  case diagnosticMessage a b l => exact .inr ⟨.diagnosticMessage, a, b, l, rfl⟩
  case diagnosticMessageAck a b l => exact .inr ⟨.diagnosticMessageAck, a, b, l, rfl⟩
  case diagnosticMessageNack a b l => exact .inr ⟨.diagnosticMessageNack, a, b, l, rfl⟩

variable (s : State)

theorem exec_rst : exec .rst s = .next (s.discardAll.answer .done) := rfl
theorem exec_push (b : Byte) :
    exec (.push b) s = .next (if s.full then s.answer .refused else (s.appendByte b).answer .done) := rfl
theorem exec_dec : exec .dec s = .next (finishDec s.phaseOfDec s) := rfl
theorem exec_skip (n : Nat) :
    exec (.skip n) s = .next (if s.level < n then s.answer .refused else (s.removeHead n).answer .done) := rfl
theorem exec_hunpk (l : List Byte) : exec (.hunpk l) s = .next (s.answer (hunpkOutcome s.cfg l)) := rfl
theorem exec_hpk (h : Header) : exec (.hpk h) s = .next (s.answer (hpkOutcome s.cfg h)) := rfl
theorem exec_dsp (t : TypeCode) : exec (.dsp t) s = .next (s.answer (dspOutcome t)) := rfl
theorem exec_dspinv (k : Route) : exec (.dspinv k) s = .next (s.answer (.code k.code)) := rfl
theorem exec_enc (h : Header) (kp : Route) (v : Payload) :
    exec (.enc h kp v) s = .next (s.answer (encOutcome s.cfg h kp v)) := rfl

/-- `perform` is the state `exec` answers. -/
theorem perform_of_exec {i : Instr} {s t : State} (h : exec i s = .next t) : perform i s = t := by simp [perform, h]

/-- The conditions under which a frame of header `h`, route `k` and value `v` is emitted in a state. -/
structure EmitsFrame (s : State) (h : Header) (k : Route) (v : Payload) : Prop where
  complete : frameTotal h ≤ s.level
  valid    : hdrValid s.cfg h = true
  typed    : h.type = k.code
  decoded  : pcodec k (sliceOf s.buf 8 (frameTotal h)) h = .ok v
  guarded  : s.level ≤ s.cfg.maxFrameSize
  bounded  : frameTotal h ≤ s.cfg.maxFrameSize

/-- A `DEC` whose header, if any, is valid answers an outcome that is no frame and changes nothing else, or emits. -/
theorem finishDec_valid_cases {s : State} {parsed : Except ErrorName Header}
    (hp : ∀ h, parsed = .ok h → hdrValid s.cfg h = true) :
    (∃ o, o ≠ .none ∧ o.isFrame = false ∧ finishDec (decPhase s.cfg s.buf parsed) s = s.answer o) ∨
    (∃ h k v, EmitsFrame s h k v ∧ finishDec (decPhase s.cfg s.buf parsed) s = emitFrame h k v s) := by
  rcases finishDec_cases (decPhase s.cfg s.buf parsed) s with ⟨o, hr, e⟩ | ⟨h, k, sl, er, hd, hc, e⟩ |
    ⟨h, k, sl, v, hd, hc, e⟩
  · refine .inl ⟨o, ?_, ?_, e⟩ <;>
      rcases decPhase_report_not_frame hr with rfl | ⟨_, rfl⟩ <;> simp [OpOutcome.isFrame]
  · exact .inl ⟨_, by simp, rfl, e⟩
  · obtain ⟨h1, h2, h3, h4, h5, rfl⟩ := decPhase_dispatch hd
    exact .inr ⟨h, k, v, ⟨h4, hp h h2, h5, hc, h1, h3⟩, e⟩

/-- What one instruction can do to a state, said once: it only answers an outcome that is no frame; or it appends one
byte; or it removes bytes from the head that are there; or it emits a frame; or it discards everything. -/
theorem perform_cases (i : Instr) (s : State) :
    (∃ o, o ≠ .none ∧ o.isFrame = false ∧ perform i s = s.answer o) ∨
    (∃ b, i = .push b ∧ s.full = false ∧ perform i s = (s.appendByte b).answer .done) ∨
    (∃ n, i = .skip n ∧ n ≤ s.level ∧ perform i s = (s.removeHead n).answer .done) ∨
    (∃ h k v, EmitsFrame s h k v ∧ perform i s = emitFrame h k v s) ∨
    (i = .rst ∧ perform i s = s.discardAll.answer .done) := by
  rcases instr_cases i with ⟨p, hp⟩ | ⟨k, ver, inv, len, rfl⟩
  · cases i
    case rst => exact .inr (.inr (.inr (.inr ⟨rfl, rfl⟩)))
    case push b =>
      cases hf : s.full with
      | true => exact .inl ⟨.refused, by simp, rfl, by simp [perform, exec_push, hf]⟩
      | false => exact .inr (.inl ⟨b, rfl, rfl, by simp [perform, exec_push, hf]⟩)
    case dec =>
      rcases finishDec_valid_cases (s := s) (parsed := hunpk s.cfg (sliceOf s.buf 0 8)) (fun h hh => (hunpk_ok hh).2)
        with h | h
      · exact .inl h
      · exact .inr (.inr (.inr (.inl h)))
    case skip n =>
      rcases Nat.lt_or_ge s.level n with h | h
      · exact .inl ⟨.refused, by simp, rfl, by simp [perform, exec_skip, h]⟩
      · exact .inr (.inr (.inl ⟨n, rfl, h, by simp [perform, exec_skip, Nat.not_lt.2 h]⟩))
    case hunpk l =>
      refine .inl ⟨hunpkOutcome s.cfg l, ?_, ?_, rfl⟩ <;> unfold hunpkOutcome <;> split <;> simp [OpOutcome.isFrame]
    case hpk h =>
      refine .inl ⟨hpkOutcome s.cfg h, ?_, ?_, rfl⟩ <;> unfold hpkOutcome <;> split <;> simp [OpOutcome.isFrame]
    case dsp t =>
      refine .inl ⟨dspOutcome t, ?_, ?_, rfl⟩ <;> unfold dspOutcome <;> split <;> simp [OpOutcome.isFrame]
    case dspinv k => exact .inl ⟨.code k.code, by simp, rfl, rfl⟩
    case enc h kp v =>
      refine .inl ⟨encOutcome s.cfg h kp v, ?_, ?_, rfl⟩ <;> unfold encOutcome <;> split <;> simp [OpOutcome.isFrame]
    all_goals cases hp
  · rw [perform_of_exec (exec_ofRoute k ver inv len s)]
    rcases finishDec_valid_cases (s := s) (parsed := headerCheck s.cfg ⟨ver, inv, k.code, len⟩)
      (fun h hh => by obtain ⟨rfl, hv⟩ := headerCheck_ok hh; exact hv) with h | h
    · exact .inl h
    · exact .inr (.inr (.inr (.inl h)))

end Sys2Proof.Machine
end

