-- ==== Sys2Proof/Laws/PerInstr.lean ====
section
/-! SUPPORT. Laws/PerInstr.lean: the family TableRow: every instruction's encoding has the fixed bits of its row of
spec/opcode_table.json (30_encoding.md R55, R58), said per constructor. -/

namespace Sys2Proof.Laws.TableRow

/-- The fixed bits of a table row: a CMD4 select code, or bytes 2 and 3 of a HDR64 header. -/
inductive RowBits where
  | select (c : Select)
  | typeBytes (hi lo : Byte)
  deriving DecidableEq, Repr

/-- The fixed bits of an instruction's row, from the table. -/
def rowBits : Instr → RowBits
  | .rst => .select 0b0000#4
  | .push _ => .select 0b0001#4
  | .dec => .select 0b0010#4
  | .skip _ => .select 0b0011#4
  | .hunpk _ => .select 0b0100#4
  | .hpk _ => .select 0b0101#4
  | .dsp _ => .select 0b0110#4
  | .dspinv _ => .select 0b0111#4
  | .enc _ _ _ => .select 0b1000#4
  | .genericNack _ _ _ => .typeBytes 0x00#8 0x00#8
  | .vehicleIdentificationRequest _ _ _ => .typeBytes 0x00#8 0x01#8
  | .vehicleIdentificationRequestEid _ _ _ => .typeBytes 0x00#8 0x02#8
  | .vehicleIdentificationRequestVin _ _ _ => .typeBytes 0x00#8 0x03#8
  | .vehicleAnnouncementMessage _ _ _ => .typeBytes 0x00#8 0x04#8
  | .routingActivationRequest _ _ _ => .typeBytes 0x00#8 0x05#8
  | .routingActivationResponse _ _ _ => .typeBytes 0x00#8 0x06#8
  | .aliveCheckRequest _ _ _ => .typeBytes 0x00#8 0x07#8
  | .aliveCheckResponse _ _ _ => .typeBytes 0x00#8 0x08#8
  | .entityStatusRequest _ _ _ => .typeBytes 0x40#8 0x01#8
  | .entityStatusResponse _ _ _ => .typeBytes 0x40#8 0x02#8
  | .powerInformationRequest _ _ _ => .typeBytes 0x40#8 0x03#8
  | .powerInformationResponse _ _ _ => .typeBytes 0x40#8 0x04#8
  | .diagnosticMessage _ _ _ => .typeBytes 0x80#8 0x01#8
  | .diagnosticMessageAck _ _ _ => .typeBytes 0x80#8 0x02#8
  | .diagnosticMessageNack _ _ _ => .typeBytes 0x80#8 0x03#8

/-- The encoding of `i` has the format and the fixed bits of its row; a header has 8 bytes. -/
def Statement (i : Instr) : Prop :=
  match rowBits i, encode i with
  | .select c, .cmd p => p.sel = c
  | .typeBytes hi lo, .frame b => b.length = 8 ∧ (b.drop 2).take 2 = [hi, lo]
  | _, _ => False

theorem typeBytes_of_code (k : Route) {ver inv hi lo : Byte} {len : PayloadLen} (h : toBe16 k.code = [hi, lo]) :
    ((Header.toBytes ⟨ver, inv, k.code, len⟩).drop 2).take 2 = [hi, lo] := h

theorem rst : Statement (.rst) := rfl
theorem push (b : Byte) : Statement (.push b) := rfl
theorem dec : Statement (.dec) := rfl
theorem skip (n : Nat) : Statement (.skip n) := rfl
theorem hunpk (s : List Byte) : Statement (.hunpk s) := rfl
theorem hpk (h : Header) : Statement (.hpk h) := rfl
theorem dsp (t : TypeCode) : Statement (.dsp t) := rfl
theorem dspinv (k : Route) : Statement (.dspinv k) := rfl
theorem enc (h : Header) (kp : Route) (v : Payload) : Statement (.enc h kp v) := rfl
theorem genericNack (ver inv : Byte) (len : PayloadLen) : Statement (.genericNack ver inv len) :=
  ⟨rfl, typeBytes_of_code .genericNack (by decide)⟩
theorem vehicleIdentificationRequest (ver inv : Byte) (len : PayloadLen) : Statement (.vehicleIdentificationRequest ver inv len) :=
  ⟨rfl, typeBytes_of_code .vehicleIdentificationRequest (by decide)⟩
theorem vehicleIdentificationRequestEid (ver inv : Byte) (len : PayloadLen) : Statement (.vehicleIdentificationRequestEid ver inv len) :=
  ⟨rfl, typeBytes_of_code .vehicleIdentificationRequestEid (by decide)⟩
theorem vehicleIdentificationRequestVin (ver inv : Byte) (len : PayloadLen) : Statement (.vehicleIdentificationRequestVin ver inv len) :=
  ⟨rfl, typeBytes_of_code .vehicleIdentificationRequestVin (by decide)⟩
theorem vehicleAnnouncementMessage (ver inv : Byte) (len : PayloadLen) : Statement (.vehicleAnnouncementMessage ver inv len) :=
  ⟨rfl, typeBytes_of_code .vehicleAnnouncementMessage (by decide)⟩
theorem routingActivationRequest (ver inv : Byte) (len : PayloadLen) : Statement (.routingActivationRequest ver inv len) :=
  ⟨rfl, typeBytes_of_code .routingActivationRequest (by decide)⟩
theorem routingActivationResponse (ver inv : Byte) (len : PayloadLen) : Statement (.routingActivationResponse ver inv len) :=
  ⟨rfl, typeBytes_of_code .routingActivationResponse (by decide)⟩
theorem aliveCheckRequest (ver inv : Byte) (len : PayloadLen) : Statement (.aliveCheckRequest ver inv len) :=
  ⟨rfl, typeBytes_of_code .aliveCheckRequest (by decide)⟩
theorem aliveCheckResponse (ver inv : Byte) (len : PayloadLen) : Statement (.aliveCheckResponse ver inv len) :=
  ⟨rfl, typeBytes_of_code .aliveCheckResponse (by decide)⟩
theorem entityStatusRequest (ver inv : Byte) (len : PayloadLen) : Statement (.entityStatusRequest ver inv len) :=
  ⟨rfl, typeBytes_of_code .entityStatusRequest (by decide)⟩
theorem entityStatusResponse (ver inv : Byte) (len : PayloadLen) : Statement (.entityStatusResponse ver inv len) :=
  ⟨rfl, typeBytes_of_code .entityStatusResponse (by decide)⟩
theorem powerInformationRequest (ver inv : Byte) (len : PayloadLen) : Statement (.powerInformationRequest ver inv len) :=
  ⟨rfl, typeBytes_of_code .powerInformationRequest (by decide)⟩
theorem powerInformationResponse (ver inv : Byte) (len : PayloadLen) : Statement (.powerInformationResponse ver inv len) :=
  ⟨rfl, typeBytes_of_code .powerInformationResponse (by decide)⟩
theorem diagnosticMessage (ver inv : Byte) (len : PayloadLen) : Statement (.diagnosticMessage ver inv len) :=
  ⟨rfl, typeBytes_of_code .diagnosticMessage (by decide)⟩
theorem diagnosticMessageAck (ver inv : Byte) (len : PayloadLen) : Statement (.diagnosticMessageAck ver inv len) :=
  ⟨rfl, typeBytes_of_code .diagnosticMessageAck (by decide)⟩
theorem diagnosticMessageNack (ver inv : Byte) (len : PayloadLen) : Statement (.diagnosticMessageNack ver inv len) :=
  ⟨rfl, typeBytes_of_code .diagnosticMessageNack (by decide)⟩

end Sys2Proof.Laws.TableRow
end

