-- ==== Sys2Proof/Laws/Step.lean ====
section
/-! SUPPORT. Laws/Step.lean: what a step and a run of steps are, and the ends of the payload decoder and of the encoder. -/

namespace Sys2Proof.Machine

/-- Every meaning answers a next state, which is what `perform` gives. -/
theorem exec_eq_perform (i : Instr) (s : State) : exec i s = .next (perform i s) := by cases i <;> rfl

/-- With no operation issued a step changes nothing. -/
theorem step_idle {s : State} (h : s.ops = []) : step s = .next s := by simp [step, h]

/-- A step on an issued operation runs what is fetched. -/
theorem step_of_fetch {s : State} {p : OpPort} {rest : List OpPort} {i : Instr} (h : s.ops = p :: rest)
    (hf : fetchInstr p s = .ok i) : step s = exec i (s.takeOp rest) := by simp [step, h, hf]

/-- A step on an unassigned select code answers `Refused`. -/
theorem step_of_unassigned {s : State} {p : OpPort} {rest : List OpPort} {e : DecodeError} (h : s.ops = p :: rest)
    (hf : fetchInstr p s = .error e) : step s = .next (answerUnassigned (s.takeOp rest)) := by simp [step, h, hf]

/-- A run goes on from the state its first step answers. -/
theorem run_of_step {s t : State} (n : Nat) (h : step s = .next t) :
    Host.Core.run Sys2Proof.core (n + 1) s = Host.Core.run Sys2Proof.core n t := by
  have h' : Sys2Proof.core.step s = .next t := h
  simp only [Host.Core.run, h']

/-- The three ends of a payload decoder, each with its condition. -/
theorem pcodec_cases (k : Route) (s : List Byte) (h : Header) :
    (s.length < minLen k ∧ pcodec k s h = .error .tooShort) ∨
    (∃ f, minLen k ≤ s.length ∧ hasSurplus k s.length = true ∧ Config.surplusVerdict k s h = some f ∧
      pcodec k s h = .error (.invalid f)) ∨
    (minLen k ≤ s.length ∧ (hasSurplus k s.length = true → Config.surplusVerdict k s h = none) ∧
      pcodec k s h = decodeFields k s h) := by
  rcases Nat.lt_or_ge s.length (minLen k) with h1 | h1
  · exact .inl ⟨h1, by simp [pcodec, h1]⟩
  cases h2 : hasSurplus k s.length with
  | false => exact .inr (.inr ⟨h1, by simp, by simp [pcodec, Nat.not_lt.2 h1, h2]⟩)
  | true =>
    cases h3 : Config.surplusVerdict k s h with
    | none => exact .inr (.inr ⟨h1, by simp, by simp [pcodec, Nat.not_lt.2 h1, h2, h3]⟩)
    | some f => exact .inr (.inl ⟨f, h1, rfl, rfl, by simp [pcodec, Nat.not_lt.2 h1, h2, h3]⟩)

theorem typeMatches_iff {h : Header} {kp : Route} : typeMatches h kp = true ↔ dsp h.type = .ok kp := by
  unfold typeMatches
  split <;> rename_i h1 <;> simp [h1]

/-- The three ends of the header part of `ENC`, in their order. -/
theorem encHeader_cases (c : Params) (h : Header) (kp : Route) :
    (dsp h.type ≠ .ok kp ∧ encHeader c h kp = .error .payloadTypeValidation) ∨
    (∃ e, dsp h.type = .ok kp ∧ headerCheck c h = .error e ∧ encHeader c h kp = .error e) ∨
    (dsp h.type = .ok kp ∧ hdrValid c h = true ∧ encHeader c h kp = .ok h.toBytes) := by
  by_cases h1 : dsp h.type = .ok kp
  · have h1' := typeMatches_iff.2 h1
    cases hc : headerCheck c h with
    | error e => exact .inr (.inl ⟨e, h1, rfl, by simp [encHeader, h1', hpk, hc]⟩)
    | ok g =>
      obtain ⟨rfl, hv⟩ := headerCheck_ok hc
      exact .inr (.inr ⟨h1, hv, by simp [encHeader, h1', hpk, hc]⟩)
  · exact .inl ⟨h1, by simp [encHeader, mt typeMatches_iff.1 h1]⟩

/-- `ENC` presents its value on the port of its tag, or it ends with its header's error. -/
theorem encPort_cases (c : Params) (h : Header) (kp : Route) (v : Payload) :
    (∃ e, encHeader c h kp = .error e ∧ encPort c h kp v = none ∧ encFrame c h kp v = .error e) ∨
    (∃ hb, encHeader c h kp = .ok hb ∧ encPort c h kp v = some (kp, v)) := by
  cases he : encHeader c h kp with
  | error e => exact .inl ⟨e, rfl, by simp [encPort, he], by simp [encFrame, he]⟩
  | ok hb => exact .inr ⟨hb, rfl, by simp [encPort, he]⟩

/-- The four ends of `ENC`, in their order. -/
theorem encFrame_cases (c : Params) (h : Header) (kp : Route) (v : Payload) :
    (dsp h.type ≠ .ok kp ∧ encFrame c h kp v = .error .payloadTypeValidation) ∨
    (∃ e, dsp h.type = .ok kp ∧ headerCheck c h = .error e ∧ encFrame c h kp v = .error e) ∨
    (dsp h.type = .ok kp ∧ hdrValid c h = true ∧ (penc kp v).length ≠ h.len.toNat ∧
      encFrame c h kp v = .error .payloadLengthValidation) ∨
    (dsp h.type = .ok kp ∧ hdrValid c h = true ∧ (penc kp v).length = h.len.toNat ∧
      encFrame c h kp v = .ok (h.toBytes ++ penc kp v)) := by
  rcases encHeader_cases c h kp with ⟨h1, e⟩ | ⟨er, h1, hc, e⟩ | ⟨h1, hv, e⟩
  · exact .inl ⟨h1, by simp [encFrame, e]⟩
  · exact .inr (.inl ⟨er, h1, hc, by simp [encFrame, e]⟩)
  · by_cases h2 : (penc kp v).length = h.len.toNat
    · exact .inr (.inr (.inr ⟨h1, hv, h2, by simp [encFrame, e, h2]⟩))
    · exact .inr (.inr (.inl ⟨h1, hv, h2, by simp [encFrame, e, h2]⟩))

/-- On a value it can encode, `PENC` concatenates the fields. -/
theorem penc_of_encodable {k : Route} {v : Payload} (h : encodable k v = true) : penc k v = payloadBytes v := by
  simp [penc, h]

/-- A structurally valid value is one that the encoder of its route can encode. -/
theorem encodable_of_structurallyValid {v : Payload} (h : structurallyValid v = true) : encodable v.route v = true := by
  simp only [structurallyValid, Bool.and_eq_true] at h
  simp [encodable, h.1]

end Sys2Proof.Machine
end

