-- ==== Sys2Proof/Tests/Slice0.lean ====
section
/-! SUPPORT. Tests/Slice0.lean: tests against words written out from the encodings and against the vectors of
95_test_vectors.md (cited by their row), and a witness for the hypotheses of each obligation that has any. -/

open Sys2Proof Sys2Proof.Machine

namespace Sys2Proof.Tests

/-! ## Helpers -/

/-- A just-reset instance of configuration `c` whose buffer holds `b`. -/
def holding (c : Params) (b : List Byte) : State := { State.resetWith c with buf := b }

/-- The default configuration with capacity `n`. -/
def cap (n : Nat) : Params := { Params.default with cap := some n }

/-- The default configuration with `MAX_FRAME_SIZE = n`. -/
def maxFrame (n : Nat) : Params := { Params.default with maxFrameSize := n }

/-- A header of version `02 fd`. -/
def hdr (t : TypeCode) (len : PayloadLen) : Header := ⟨0x02, 0xfd, t, len⟩

/-- The operation with select code `c` and every lane zero. -/
def select (c : Select) : OpPort := { OpPort.zero with sel := c }

/-- The outcome of one instruction, and the buffer it leaves. -/
def run1 (i : Instr) (s : State) : OpOutcome × List Byte := ((perform i s).res, (perform i s).buf)

/-! ## Well-formedness: for each check a term it accepts and one it refuses -/

theorem test_wf_version : Instr.wf .default (.aliveCheckRequest 0x02 0xfd 0) = true ∧
    Instr.wf .default (.aliveCheckRequest 0x05 0xfa 0) = false := by decide
theorem test_wf_check_byte : Instr.wf .default (.genericNack 0xff 0x00 1) = true ∧
    Instr.wf .default (.genericNack 0x02 0xff 1) = false := by decide
theorem test_wf_tag : Instr.wf .default (.enc (hdr 0x0001 0) .vehicleIdentificationRequest .vehicleIdentificationRequest) = true ∧
    Instr.wf .default (.enc (hdr 0x0001 0) .vehicleIdentificationRequest .aliveCheckRequest) = false := by decide
theorem test_wf_widths : Instr.wf .default (.enc (hdr 0x0008 2) .aliveCheckResponse (.aliveCheckResponse [0x0e, 0x80])) = true ∧
    Instr.wf .default (.enc (hdr 0x0008 2) .aliveCheckResponse (.aliveCheckResponse [0x0e])) = false := by decide
/-- A six-byte identifier with one byte too many and too few, and a long VIN. -/
theorem test_wf_payload_widths : Payload.wf (.vehicleIdentificationRequestEid [1, 2, 3, 4, 5, 6, 7]) = false ∧
    Payload.wf (.vehicleIdentificationRequestVin (List.replicate 16 0x41)) = false ∧
    Payload.wf (.vehicleAnnouncementMessage (List.replicate 17 0) [0, 0] (List.replicate 6 0) (List.replicate 5 0) 0 none) = false ∧
    Payload.wf (.routingActivationRequest [0, 0] 0 [0, 0, 0]) = false ∧
    Payload.wf (.routingActivationResponse [0, 0] [0] 0 [0, 0, 0, 0]) = false ∧
    Payload.wf (.entityStatusResponse 0 0 0 [0, 0, 0]) = false ∧ Payload.wf (.diagnosticMessage [0] [0, 0] []) = false ∧
    Payload.wf (.diagnosticMessageAck [0, 0] [0, 0, 0] 0) = false ∧ Payload.wf (.diagnosticMessageNack [] [0, 0] 0) = false := by
  decide

/-! ## Decoding: a word for each constructor, from 30_encoding.md R50, R55 and R58 -/

/-- The nine select codes; the lanes of a table word are zero. -/
theorem test_decode_operations :
    decodeTableWord 8 0b0000 = some .rst ∧ decodeTableWord 8 0b0001 = some (.push 0) ∧
    decodeTableWord 8 0b0010 = some .dec ∧ decodeTableWord 8 0b0011 = some (.skip 0) ∧
    decodeTableWord 8 0b0100 = some (.hunpk []) ∧ decodeTableWord 8 0b0101 = some (.hpk ⟨0, 0, 0, 0⟩) ∧
    decodeTableWord 8 0b0110 = some (.dsp 0) ∧ decodeTableWord 8 0b0111 = some (.dspinv .genericNack) ∧
    decodeTableWord 8 0b1000 = some (.enc ⟨0, 0, 0, 0⟩ .genericNack (.genericNack 0)) ∧
    decodeTableWord 8 0b1001 = none ∧ decodeTableWord 8 0b1111 = none := by decide
/-- The first eight header words, the version and check bytes and the lengths varied. -/
theorem test_decode_frames_low :
    decodeTableWord 64 0x02FD000000000001 = some (.genericNack 0x02 0xfd 1) ∧
    decodeTableWord 64 0x02FD000100000000 = some (.vehicleIdentificationRequest 0x02 0xfd 0) ∧
    decodeTableWord 64 0x01FE000200000006 = some (.vehicleIdentificationRequestEid 0x01 0xfe 6) ∧
    decodeTableWord 64 0x03FC000300000011 = some (.vehicleIdentificationRequestVin 0x03 0xfc 17) ∧
    decodeTableWord 64 0x04FB000400000021 = some (.vehicleAnnouncementMessage 0x04 0xfb 33) ∧
    decodeTableWord 64 0x02FD000500000007 = some (.routingActivationRequest 0x02 0xfd 7) ∧
    decodeTableWord 64 0x02FD000600000009 = some (.routingActivationResponse 0x02 0xfd 9) ∧
    decodeTableWord 64 0xFF00000700000000 = some (.aliveCheckRequest 0xff 0x00 0) := by decide
theorem test_decode_frames_high :
    decodeTableWord 64 0x01FE000800000002 = some (.aliveCheckResponse 0x01 0xfe 2) ∧
    decodeTableWord 64 0x02FD400100000000 = some (.entityStatusRequest 0x02 0xfd 0) ∧
    decodeTableWord 64 0x04FB400200000007 = some (.entityStatusResponse 0x04 0xfb 7) ∧
    decodeTableWord 64 0x02FD400300000000 = some (.powerInformationRequest 0x02 0xfd 0) ∧
    decodeTableWord 64 0xFF00400400000001 = some (.powerInformationResponse 0xff 0x00 1) ∧
    decodeTableWord 64 0x02FD8001FFFFFFFF = some (.diagnosticMessage 0x02 0xfd 0xffffffff) ∧
    decodeTableWord 64 0x02FD800200000005 = some (.diagnosticMessageAck 0x02 0xfd 5) ∧
    decodeTableWord 64 0x03FC800300010203 = some (.diagnosticMessageNack 0x03 0xfc 0x10203) ∧
    decodeTableWord 64 0x02FD010000000000 = none := by decide
/-- What does not decode says why. -/
theorem test_decode_rejects_by_name :
    decode (.cmd (select 0b1010)) = .error (.unassignedSelect 0b1010) ∧
    decode (.frame [0x02, 0xfd, 0x80, 0x04, 0, 0, 0, 0]) = .error (.unknownPayloadType 0x8004) ∧
    decode (.frame [0x02, 0xfd, 0x80, 0x01, 0, 0, 0]) = .error .fewerThanEightBytes := by decide
theorem test_encode_operation : encode (.skip 3) = .cmd { select 0b0011 with count := 3 } := by decide
theorem test_encode_frame : encode (.diagnosticMessageNack 0x03 0xfc 0x00010203) =
    .frame [0x03, 0xfc, 0x80, 0x03, 0x00, 0x01, 0x02, 0x03] := by decide

/-! ## Steps from reset -/

/-- A select code placed where the step fetches runs as the first instruction after reset. -/
theorem test_fetch_operation : ∃ t, step (State.reset.withFetchWord 8 0b0111) = .next t ∧
    t.res = .code 0x0000 ∧ t.ops = [] := ⟨_, rfl, rfl, rfl⟩
/-- A header placed where `DEC` fetches runs as its frame kind (P1's frame). -/
theorem test_fetch_frame : ∃ t, step (State.reset.withFetchWord 64 0x02FD000100000000) = .next t ∧
    t.res = .frame (hdr 0x0001 0) .vehicleIdentificationRequest .vehicleIdentificationRequest ∧ t.buf = [] :=
  ⟨_, rfl, by decide, by decide⟩
/-- B10: select code `1001`. -/
theorem test_unassigned_select : ∃ t, step { holding .default [0xaa] with ops := [select 0b1001] } = .next t ∧
    t.res = .refused ∧ t.buf = [0xaa] := ⟨_, rfl, rfl, rfl⟩
theorem test_idle : step (holding .default [0xaa]) = .next (holding .default [0xaa]) := rfl

/-! ## PUSH, SKIP, RST (rows B1 to B9) -/

theorem test_push : run1 (.push 0x01) (holding (cap 4) [0x02, 0xfd, 0x00]) = (.done, [0x02, 0xfd, 0x00, 0x01]) := by decide
theorem test_push_full : run1 (.push 0x00) (holding (cap 4) [0x02, 0xfd, 0x00, 0x01]) =
    (.refused, [0x02, 0xfd, 0x00, 0x01]) := by decide
theorem test_skip : run1 (.skip 1) (holding .default [0xff, 0x02, 0xfd]) = (.done, [0x02, 0xfd]) ∧
    (perform (.skip 1) (holding .default [0xff, 0x02, 0xfd])).consumed = 1 := by decide
theorem test_skip_past_level : run1 (.skip 4) (holding .default [0xff, 0x02, 0xfd]) = (.refused, [0xff, 0x02, 0xfd]) ∧
    run1 (.skip 3) (holding .default [0xff, 0x02, 0xfd]) = (.done, []) := by decide
theorem test_rst : perform .rst { holding (cap 12) (List.replicate 12 0) with consumed := 5, frames := 1 } =
    { State.resetWith (cap 12) with res := .done } := by decide

/-! ## HUNPK, HPK (rows H and K) -/

/-- H2, H4, H5, H27. -/
theorem test_hunpk : hunpkOutcome .default [0x02, 0xfd, 0x80, 0x01, 0, 0, 1, 0] = .header (hdr 0x8001 256) ∧
    hunpkOutcome .default [0x02, 0xfd, 0x80, 0x01, 0xff, 0xff, 0xff, 0xff] = .header (hdr 0x8001 4294967295) ∧
    hunpkOutcome .default [0xff, 0x00, 0x40, 0x04, 0, 0, 0, 1] = .header ⟨0xff, 0x00, 0x4004, 1⟩ ∧
    hunpkOutcome .default [0x02, 0xfd, 0x00, 0x01, 0, 0, 0, 0, 0xaa, 0xbb] = .header (hdr 0x0001 0) := by decide
/-- H22, H23, H17, H26: the priority of the errors. -/
theorem test_hunpk_errors : hunpkOutcome .default [0x05, 0, 0, 0x09, 0, 0, 0, 0] = .error .invalidProtocolVersion ∧
    hunpkOutcome .default [0x02, 0, 0, 0x09, 0, 0, 0, 0] = .error .failedProtocolValidation ∧
    hunpkOutcome .default [0x02, 0xfd, 0x01, 0x00, 0, 0, 0, 0] = .error .invalidPayloadType ∧
    hunpkOutcome .default [0x05, 0xfa, 0x00] = .error .tooShort := by decide
/-- K2. -/
theorem test_hpk : (perform (.hpk ⟨0x03, 0xfc, 0x8001, 0x00010203⟩) .reset).out =
    [0x03, 0xfc, 0x80, 0x01, 0x00, 0x01, 0x02, 0x03] := by decide
/-- K6, K7, K9. -/
theorem test_hpk_errors : hpkOutcome .default ⟨0x07, 0xf8, 0x0001, 0⟩ = .error .invalidProtocolVersion ∧
    hpkOutcome .default (hdr 0x1234 0) = .error .invalidPayloadType ∧
    hpkOutcome .default ⟨0x02, 0x00, 0x1234, 0⟩ = .error .failedProtocolValidation := by decide

/-! ## DSP, DSPINV (section 2.3) -/

theorem test_dsp : run1 (.dsp 0x8002) .reset = (.route .diagnosticMessageAck, []) ∧ Route.diagnosticMessageAck.index = 14 ∧
    run1 (.dsp 0x4001) .reset = (.route .entityStatusRequest, []) ∧ Route.entityStatusRequest.index = 9 := by decide
theorem test_dsp_invalid : [0x0009, 0x0100, 0x4000, 0x4005, 0x8000, 0x8004, 0xffff].map dspOutcome =
    List.replicate 7 (.error .invalidPayloadType) := by decide
theorem test_dspinv : run1 (.dspinv .diagnosticMessage) .reset = (.code 0x8001, []) ∧
    run1 (.dspinv .routingActivationRequest) .reset = (.code 0x0005, []) := by decide

/-! ## ENC (rows E) -/

/-- E1, the frame of scenario S4. -/
theorem test_enc : (perform (.enc (hdr 0x0005 7) .routingActivationRequest (.routingActivationRequest [0, 0] 0 [0, 0, 0, 0]))
    .reset).out = [0x02, 0xfd, 0x00, 0x05, 0, 0, 0, 7, 0, 0, 0, 0, 0, 0, 0] := by decide
/-- E4, E6, E7, E8: the order of the checks. -/
theorem test_enc_errors :
    encOutcome .default (hdr 0x8001 6) .diagnosticMessageAck (.diagnosticMessageAck [0x0e, 0x80] [0x10, 0x01] 0) =
      .error .payloadTypeValidation ∧
    encOutcome .default (hdr 0x0005 6) .routingActivationRequest (.routingActivationRequest [0, 0] 0 [0, 0, 0, 0]) =
      .error .payloadLengthValidation ∧
    encOutcome .default ⟨0x02, 0xff, 0x0005, 7⟩ .routingActivationRequest (.routingActivationRequest [0, 0] 0 [0, 0, 0, 0]) =
      .error .failedProtocolValidation ∧
    encOutcome .default (hdr 0x1234 0) .vehicleIdentificationRequest .vehicleIdentificationRequest =
      .error .payloadTypeValidation := by decide

/-! ## DEC (rows F, G and C) -/

/-- F17: the body's length is the header's. -/
theorem test_dec : run1 .dec (holding .default [0x02, 0xfd, 0x80, 0x01, 0, 0, 0, 6, 0x0e, 0x80, 0x10, 0x01, 0x3e, 0x00, 0x99]) =
    (.frame (hdr 0x8001 6) .diagnosticMessage (.diagnosticMessage [0x0e, 0x80] [0x10, 0x01] [0x3e, 0x00]), [0x99]) := by decide
/-- F3, F6, F11 and F12: incomplete. -/
theorem test_dec_incomplete : ∀ b ∈ [[0x02, 0xfd, 0x00, 0x01, 0, 0, 0], [0x02, 0xfd, 0x80, 0x02, 0, 0, 0, 5, 0, 0, 0, 0], [0xaa],
    [0x05, 0xfa, 0, 1, 0, 0, 0]], run1 .dec (holding .default b) = (.incomplete, b) := by decide
/-- G1v, G2v, G4v, G5v: the guard on the declared length. -/
theorem test_dec_declared_length :
    [[0x02, 0xfd, 0x80, 0x01, 0x00, 0x7f, 0xff, 0xf8], [0x02, 0xfd, 0x80, 0x01, 0x00, 0x7f, 0xff, 0xf9],
     [0x02, 0xfd, 0x80, 0x01, 0xff, 0xff, 0xff, 0xff], [0x05, 0xfa, 0x80, 0x01, 0xff, 0xff, 0xff, 0xff]].map
      (fun b => (perform .dec (holding .default b)).res) =
    [.incomplete, .error .messageTooLarge, .error .messageTooLarge, .error .invalidProtocolVersion] := by decide
/-- G6v, G7v: the guard on the buffer. -/
theorem test_dec_buffer_guard : let two : List Byte := [0x02, 0xfd, 0, 7, 0, 0, 0, 0, 0x02, 0xfd, 0, 7, 0, 0, 0, 0]
    run1 .dec (holding (maxFrame 16) (two ++ [0x02])) = (.error .messageTooLarge, two ++ [0x02]) ∧
    run1 .dec (holding (maxFrame 16) two) = (.frame (hdr 0x0007 0) .aliveCheckRequest .aliveCheckRequest, two.drop 8) := by decide
/-- C1v, C2v, C4v, C7v, C9v: fixed capacity. -/
theorem test_dec_capacity : let twelve : List Byte := [0x02, 0xfd, 0x80, 0x02, 0, 0, 0, 5, 0, 0, 0, 0]
    run1 .dec (holding (cap 12) twelve) = (.error .bufferTooSmall, twelve) ∧
    run1 .dec (holding (cap 13) twelve) = (.incomplete, twelve) ∧
    run1 .dec (holding (cap 12) (twelve.take 8)) = (.incomplete, twelve.take 8) ∧
    run1 .dec (holding (cap 4) [0x02, 0xfd, 0, 1]) = (.error .bufferTooSmall, [0x02, 0xfd, 0, 1]) ∧
    (perform .dec (holding (cap 12) [0x02, 0xfd, 0, 9, 0, 0, 0, 5, 0, 0, 0, 0])).res = .error .invalidPayloadType := by decide

/-! ## The frame kinds -/

/-- F19: no code byte. -/
theorem test_genericNack : run1 (.genericNack 0x02 0xfd 0) (holding .default [0x02, 0xfd, 0, 0, 0, 0, 0, 0]) =
    (.error .tooShort, [0x02, 0xfd, 0, 0, 0, 0, 0, 0]) := by decide
/-- F4 (S1). -/
theorem test_vehicleIdentificationRequest :
    run1 (.vehicleIdentificationRequest 0x02 0xfd 0) (holding .default [0x02, 0xfd, 0, 1, 0, 0, 0, 0]) =
    (.frame (hdr 0x0001 0) .vehicleIdentificationRequest .vehicleIdentificationRequest, []) := by decide
/-- Structural length exactly (R148). -/
theorem test_vehicleIdentificationRequestEid :
    run1 (.vehicleIdentificationRequestEid 0x02 0xfd 6) (holding .default ([0x02, 0xfd, 0, 2, 0, 0, 0, 6] ++ [1, 2, 3, 4, 5, 6, 7])) =
    (.frame (hdr 0x0002 6) .vehicleIdentificationRequestEid (.vehicleIdentificationRequestEid [1, 2, 3, 4, 5, 6]), [7]) := by decide
/-- F21: one byte short of complete is not `TooShort`. -/
theorem test_vehicleIdentificationRequestVin :
    (perform (.vehicleIdentificationRequestVin 0x02 0xfd 17)
      (holding .default ([0x02, 0xfd, 0, 3, 0, 0, 0, 0x11] ++ List.replicate 16 0x41))).res = .incomplete := by decide
/-- F20: below the short variant. -/
theorem test_vehicleAnnouncementMessage :
    (perform (.vehicleAnnouncementMessage 0x02 0xfd 31)
      (holding .default ([0x02, 0xfd, 0, 4, 0, 0, 0, 0x1f] ++ List.replicate 31 0x11))).res = .error .tooShort := by decide
/-- P5: the frame of S4 decoded; the field order of R151. -/
theorem test_routingActivationRequest :
    run1 (.routingActivationRequest 0x02 0xfd 7) (holding .default ([0x02, 0xfd, 0, 5, 0, 0, 0, 7] ++ [1, 2, 0, 3, 4, 5, 6])) =
    (.frame (hdr 0x0005 7) .routingActivationRequest (.routingActivationRequest [1, 2] 0 [3, 4, 5, 6]), []) := by decide
/-- The 7 bytes of the request are too few for the response (R152). -/
theorem test_routingActivationResponse :
    (perform (.routingActivationResponse 0x02 0xfd 8)
      (holding .default ([0x02, 0xfd, 0, 6, 0, 0, 0, 8] ++ List.replicate 8 0))).res = .error .tooShort := by decide
/-- F9: the bytes after the frame stay. -/
theorem test_aliveCheckRequest :
    run1 (.aliveCheckRequest 0x02 0xfd 0) (holding .default [0x02, 0xfd, 0, 7, 0, 0, 0, 0, 0x02, 0xfd]) =
    (.frame (hdr 0x0007 0) .aliveCheckRequest .aliveCheckRequest, [0x02, 0xfd]) := by decide
/-- F10, F18. -/
theorem test_aliveCheckResponse :
    run1 (.aliveCheckResponse 0x02 0xfd 2) (holding .default [0x02, 0xfd, 0, 8, 0, 0, 0, 2, 0x0e, 0x80, 0xaa]) =
      (.frame (hdr 0x0008 2) .aliveCheckResponse (.aliveCheckResponse [0x0e, 0x80]), [0xaa]) ∧
    (perform (.aliveCheckResponse 0x02 0xfd 1) (holding .default [0x02, 0xfd, 0, 8, 0, 0, 0, 1, 0x0e])).res =
      .error .tooShort := by decide
/-- R155. -/
theorem test_entityStatusRequest :
    run1 (.entityStatusRequest 0x02 0xfd 0) (holding .default [0x02, 0xfd, 0x40, 1, 0, 0, 0, 0]) =
    (.frame (hdr 0x4001 0) .entityStatusRequest .entityStatusRequest, []) := by decide
/-- R156: one byte below the structural length. -/
theorem test_entityStatusResponse :
    (perform (.entityStatusResponse 0x02 0xfd 6) (holding .default ([0x02, 0xfd, 0x40, 2, 0, 0, 0, 6] ++ List.replicate 6 0))).res =
    .error .tooShort := by decide
/-- R157. -/
theorem test_powerInformationRequest :
    run1 (.powerInformationRequest 0x02 0xfd 0) (holding .default [0x02, 0xfd, 0x40, 3, 0, 0, 0, 0]) =
    (.frame (hdr 0x4003 0) .powerInformationRequest .powerInformationRequest, []) := by decide
/-- R158: no mode byte. -/
theorem test_powerInformationResponse :
    (perform (.powerInformationResponse 0x02 0xfd 0) (holding .default [0x02, 0xfd, 0x40, 4, 0, 0, 0, 0])).res =
    .error .tooShort := by decide
/-- F16: an empty body; and a payload without its addresses. -/
theorem test_diagnosticMessage :
    run1 (.diagnosticMessage 0x02 0xfd 4) (holding .default [0x02, 0xfd, 0x80, 1, 0, 0, 0, 4, 0x0e, 0x80, 0x10, 0x01]) =
      (.frame (hdr 0x8001 4) .diagnosticMessage (.diagnosticMessage [0x0e, 0x80] [0x10, 0x01] []), []) ∧
    (perform (.diagnosticMessage 0x02 0xfd 3) (holding .default [0x02, 0xfd, 0x80, 1, 0, 0, 0, 3, 0, 0, 0])).res =
      .error .tooShort := by decide
/-- F7 and F8 (S3): ack code `0x00` is accepted, `0x42` is not and consumes nothing. -/
theorem test_diagnosticMessageAck : let head : List Byte := [0x02, 0xfd, 0x80, 2, 0, 0, 0, 5, 0, 0, 0, 0]
    run1 (.diagnosticMessageAck 0x02 0xfd 5) (holding .default (head ++ [0x00])) =
      (.frame (hdr 0x8002 5) .diagnosticMessageAck (.diagnosticMessageAck [0, 0] [0, 0] 0), []) ∧
    run1 (.diagnosticMessageAck 0x02 0xfd 5) (holding .default (head ++ [0x42])) =
      (.error .invalidDiagnosticAckCode, head ++ [0x42]) := by decide
/-- R161: one byte below the structural length. -/
theorem test_diagnosticMessageNack :
    (perform (.diagnosticMessageNack 0x02 0xfd 4) (holding .default [0x02, 0xfd, 0x80, 3, 0, 0, 0, 4, 0, 0, 0, 0])).res =
    .error .tooShort := by decide

/-! ## Witnesses: concrete states and operands that meet the hypotheses of the obligations -/

/-- An AliveCheckResponse from address `0e 80`, and its bytes with the first byte of a next frame. -/
def acr : GoodFrame := ⟨hdr 0x0008 2, .aliveCheckResponse, [0x0e, 0x80], .aliveCheckResponse [0x0e, 0x80]⟩
def acrBytes : List Byte := [0x02, 0xfd, 0x00, 0x08, 0, 0, 0, 2, 0x0e, 0x80]

/-- The frame is accepted in every configuration with version `02` and room for it. -/
theorem acr_accepted {c : Params} (hv : hdrValid c (hdr 0x0008 2) = true) (hm : 10 ≤ c.maxFrameSize) : acr.Accepted c :=
  ⟨⟨hv, rfl, rfl, hm⟩, by decide⟩

theorem witness_DecodedHeaderEncodesBack :
    decodeFrame [0xff, 0x00, 0x80, 0x03, 1, 2, 3, 4, 0xaa] = .ok (.diagnosticMessageNack 0xff 0x00 0x01020304, [0xaa]) := by decide
theorem witness_HeaderFieldMapsAreInverse : ([0xff, 0xff, 0xff, 0xff, 0xff, 0xff, 0xff, 0xff] : List Byte).length = 8 ∧
    ([0, 0, 0, 0, 0, 0, 0, 0] : List Byte).length = 8 := by decide
/-- One state for each clause: an operation other than `DEC`; `DEC` on a row of the type table; `DEC` on no row. -/
theorem witness_StepRunsTheDecodedInstruction :
    ({ holding .default [0x02] with ops := [{ select 0b0001 with inByte := 0xff }] } : State).ops =
      [{ select 0b0001 with inByte := 0xff }] ∧
    decodeOp { select 0b0001 with inByte := 0xff } = .ok (.push 0xff) ∧ decodeOp (select 0b0010) = .ok .dec ∧
    decodeFrame acrBytes = .ok (.aliveCheckResponse 0x02 0xfd 2, [0x0e, 0x80]) ∧
    decodeFrame (acrBytes.take 7) = .error .fewerThanEightBytes := by decide
/-- The last select code, `1000`, with its lanes. -/
theorem witness_StepPerformsTheHostOperation : let p := { select 0b1000 with header := hdr 0x0001 0, route := .vehicleIdentificationRequest, value := .vehicleIdentificationRequest }
    ({ holding .default [0x02] with ops := [p, select 0b0000] } : State).ops = [p, select 0b0000] ∧
    decodeOp p = .ok (.enc (hdr 0x0001 0) .vehicleIdentificationRequest .vehicleIdentificationRequest) := by decide
/-- The smallest capacity and the smallest maximum frame size that R5 allows, and the default. -/
theorem witness_ResetMeetsTheInvariant : (cap 1).Valid ∧ (maxFrame 8).Valid ∧ Params.default.Valid := by decide
theorem witness_FrameKindDoesWhatDecDoes :
    decodeFrame (holding (cap 10) acrBytes).buf = .ok (.aliveCheckResponse 0x02 0xfd 2, [0x0e, 0x80]) := by decide
/-- A full buffer with a step to take: the frame at its head. -/
theorem witness_StepKeepsTheInvariant :
    ({ holding (cap 10) acrBytes with ops := [select 0b0010] } : State).Inv ∧
    ∃ t, step { holding (cap 10) acrBytes with ops := [select 0b0010] } = .next t ∧ t.frames = 1 ∧ t.consumed = 10 :=
  ⟨⟨by decide, by decide, by decide⟩, ⟨_, rfl, by decide, by decide⟩⟩
/-- One instruction for each clause; `SKIP` of the whole level; a `PUSH` into the last free cell. -/
theorem witness_BufferBytesAreKept :
    (holding (cap 11) acrBytes).full = false ∧ (10 : Nat) ≤ (holding (cap 11) acrBytes).level ∧
    (∃ h k v, (perform .dec (holding (cap 11) acrBytes)).res = .frame h k v) ∧
    (perform (.skip 11) (holding (cap 11) acrBytes)).res.isFrame = false ∧ (holding (cap 11) acrBytes).level < 11 :=
  ⟨by decide, by decide, ⟨hdr 0x0008 2, .aliveCheckResponse, .aliveCheckResponse [0x0e, 0x80], by decide⟩, by decide,
    by decide⟩
/-- A state one byte into its stream, and a trace that pushes, emits and skips. -/
theorem witness_BufferIsTheStreamFromConsumed :
    let s : State := { holding .default acrBytes with consumed := 1 }
    Instr.rst ∉ [.push 0xbb, .dec, .skip 1] ∧ s.consumed ≤ ((0xaa : Byte) :: acrBytes).length ∧
      s.buf = ((0xaa : Byte) :: acrBytes).drop s.consumed ∧ accepted [.push 0xbb, .dec, .skip 1] s = [0xbb] := by decide
theorem witness_FieldsAreBigEndian : Header.ofBytes (holding .default acrBytes).buf = some (hdr 0x0008 2) := by decide
/-- Each clause of the round trip: a valid header, 8 bytes that unpack, 8 bytes that fail. -/
theorem witness_HeaderPackUnpackRoundTrip : hdrValid .default (hdr 0x0008 2) = true ∧
    hunpk .default (acrBytes.take 8) = .ok (hdr 0x0008 2) ∧ (acrBytes.take 8).length = 8 ∧
    Header.ofBytes [0x02, 0xff, 0, 1, 0, 0, 0, 0] = some ⟨0x02, 0xff, 1, 0⟩ ∧
    hunpk .default [0x02, 0xff, 0, 1, 0, 0, 0, 0] = .error .failedProtocolValidation := by decide
theorem witness_OnlyComplementPairsAreValid : hunpk .default [0xff, 0x00, 0x40, 0x04, 0, 0, 0, 1] = .ok ⟨0xff, 0x00, 0x4004, 1⟩ := by
  decide
theorem witness_PureOperationsTouchOnlyRes :
    ∃ t, exec (.enc (hdr 0x0001 0) .vehicleIdentificationRequest .vehicleIdentificationRequest) (holding .default [1]) = .next t ∧
      t.res ≠ .none := ⟨_, rfl, by decide⟩
/-- The last code of the table, and the code after it. -/
theorem witness_DspSelectsTheRoute : (0x8003 : TypeCode) = Route.code .diagnosticMessageNack ∧
    ∀ k : Route, (0x8004 : TypeCode) ≠ k.code := ⟨rfl, fun k => by cases k <;> decide⟩
theorem witness_DispatcherIsABijection : dsp 0x0000 = .ok .genericNack ∧ (0x8003 : TypeCode) ∈ typeCodes ∧
    (0x0009 : TypeCode) ∉ typeCodes := by decide
/-- A buffer one byte short of full, and a full one. -/
theorem witness_PushAppendsOrIsRefused :
    (holding (cap 2) [1]).cfg.cap ≠ some (holding (cap 2) [1]).buf.length ∧
    (holding (cap 2) [1, 2]).cfg.cap = some (holding (cap 2) [1, 2]).buf.length := by decide
theorem witness_SkipDiscardsFromTheHead : 2 ≤ (holding .default [1, 2]).buf.length ∧ (holding .default [1, 2]).buf.length < 3 := by
  decide
/-- A buffer of exactly `MAX_FRAME_SIZE` bytes that begins with an accepted frame. -/
theorem witness_DecEmitsTheFrameAtTheHead : acr.Accepted (holding (maxFrame 11) (acrBytes ++ [0x02])).cfg ∧
    (holding (maxFrame 11) (acrBytes ++ [0x02])).buf = acr.wire ++ [0x02] ∧
    (holding (maxFrame 11) (acrBytes ++ [0x02])).buf.length ≤ (holding (maxFrame 11) (acrBytes ++ [0x02])).cfg.maxFrameSize :=
  ⟨acr_accepted (by decide) (by decide), by decide, by decide⟩
/-- A structurally valid value of each route, in the shape of `structurallyValid`; the codes the spec evidences, else the
code of log entry 6. -/
def sample : Route → Payload
  | .genericNack => .genericNack (Config.someCode .nackCode)
  | .vehicleIdentificationRequest => .vehicleIdentificationRequest
  | .vehicleIdentificationRequestEid => .vehicleIdentificationRequestEid [1, 2, 3, 4, 5, 6]
  | .vehicleIdentificationRequestVin => .vehicleIdentificationRequestVin (List.replicate 17 0x41)
  | .vehicleAnnouncementMessage => .vehicleAnnouncementMessage (List.replicate 17 0x41) [1, 2] (List.replicate 6 3)
      (List.replicate 6 4) (Config.someCode .actionCode) none
  | .routingActivationRequest => .routingActivationRequest [1, 2] 0x00 [0, 0, 0, 0]
  | .routingActivationResponse => .routingActivationResponse [1, 2] [3, 4] (Config.someCode .activationCode) [0, 0, 0, 0]
  | .aliveCheckRequest => .aliveCheckRequest
  | .aliveCheckResponse => .aliveCheckResponse [1, 2]
  | .entityStatusRequest => .entityStatusRequest
  | .entityStatusResponse => .entityStatusResponse (Config.someCode .nodeType) 1 2 [3, 4, 5, 6]
  | .powerInformationRequest => .powerInformationRequest
  | .powerInformationResponse => .powerInformationResponse (Config.someCode .powerMode)
  | .diagnosticMessage => .diagnosticMessage [1, 2] [3, 4] []
  | .diagnosticMessageAck => .diagnosticMessageAck [1, 2] [3, 4] 0x00
  | .diagnosticMessageNack => .diagnosticMessageNack [1, 2] [3, 4] (Config.someCode .diagnosticNackCode)
/-- Every one of the 16 variants has a structurally valid value, the long VehicleAnnouncementMessage among them. -/
theorem witness_PayloadRoundTrip : (∀ k : Route, (sample k).route = k ∧ structurallyValid (sample k) = true ∧
      (BitVec.ofNat 32 (minLen k)).toNat = (penc (sample k).route (sample k)).length) ∧
    structurallyValid (.vehicleAnnouncementMessage (List.replicate 17 0) [0, 0] (List.replicate 6 0) (List.replicate 6 0)
      (Config.someCode .actionCode) (some (Config.someCode .syncStatus))) = true := by
  refine ⟨fun k => ?_, by simp [structurallyValid, Payload.wf, codesDeclared, codeOk, evidencedCode]⟩
  cases k <;> refine ⟨rfl, ?_, rfl⟩ <;>
    simp [sample, structurallyValid, Payload.wf, codesDeclared, codeOk, evidencedCode]
/-- For every route a payload of exactly the minimum length that is accepted. -/
theorem witness_PayloadFieldsLieAtTheirOffsets (k : Route) : (payloadBytes (sample k)).length = minLen k ∧
    pcodec k (payloadBytes (sample k)) (hdr k.code (BitVec.ofNat 32 (minLen k))) = .ok (sample k) := by
  cases k <;> simp [sample, payloadBytes, pcodec, minLen, hasSurplus, maxLen, decodeFields, decodeVam, checkCode, checkSync,
    codeOk, evidencedCode, byteAt, sliceOf, hdr]
/-- Every route has an accepted frame, at the head of a buffer no longer than `MAX_FRAME_SIZE`. -/
theorem witness_EveryFrameKindEmits : ∀ k : Route, ∃ f : GoodFrame, f.route = k ∧ f.Accepted (holding .default f.wire).cfg ∧
    (holding .default f.wire).buf = f.wire ++ [] ∧
    (holding .default f.wire).buf.length ≤ (holding .default f.wire).cfg.maxFrameSize := by
  intro k
  refine ⟨⟨hdr k.code (BitVec.ofNat 32 (minLen k)), k, payloadBytes (sample k), sample k⟩, rfl, ⟨⟨?_, rfl, ?_, ?_⟩, ?_⟩, ?_, ?_⟩
  · cases k <;> decide
  · cases k <;> rfl
  · cases k <;> decide
  · exact (witness_PayloadFieldsLieAtTheirOffsets k).2
  · simp [holding]
  · cases k <;> simp [holding, Params.default, GoodFrame.wire, Header.toBytes, toBe16, toBe32, sample, payloadBytes]
/-- A buffer for each end: past the guard by one byte; 7 bytes full and not; the guards met with equality at 10 bytes; a
declared size one past the guard; one byte short, full and not; a payload of one byte for two. -/
theorem witness_FrameKindOtherEnds :
    (maxFrame 9).maxFrameSize < acrBytes.length ∧ (acrBytes.take 7).length < 8 ∧ (cap 7).cap = some (acrBytes.take 7).length ∧
    (cap 8).cap ≠ some (acrBytes.take 7).length ∧ acrBytes.length ≤ (maxFrame 10).maxFrameSize ∧
    0x05#8 ∉ (maxFrame 10).versionCodes ∧ 0x02#8 ∈ (maxFrame 10).versionCodes ∧ 0xff#8 ≠ ~~~0x02#8 ∧ 0xfd#8 = ~~~0x02#8 ∧
    (maxFrame 10).maxFrameSize < 8 + (3#32).toNat ∧ 8 + (2#32).toNat ≤ (maxFrame 10).maxFrameSize ∧
    (acrBytes.take 9).length < 8 + (2#32).toNat ∧ (cap 9).cap = some (acrBytes.take 9).length ∧
    (cap 10).cap ≠ some (acrBytes.take 9).length ∧ 8 + (1#32).toNat ≤ acrBytes.length ∧
    pcodec .aliveCheckResponse ((acrBytes.drop 8).take (1#32).toNat) (hdr 0x0008 1) = .error .tooShort := by decide
/-- A `DEC` that presents a slice and emits; one that presents a slice and fails; one that presents nothing; an `ENC` that
presents its value and gives a frame, and one that presents nothing. -/
theorem witness_PayloadPortCarriesTheSlice :
    (holding (cap 10) acrBytes).decPort = some (.aliveCheckResponse, [0x0e, 0x80], hdr 0x0008 2) ∧
    (holding .default [0x02, 0xfd, 0, 8, 0, 0, 0, 1, 0x0e]).decPort = some (.aliveCheckResponse, [0x0e], hdr 0x0008 1) ∧
    pcodec .aliveCheckResponse [0x0e, 0x80] (hdr 0x0008 2) = .ok (.aliveCheckResponse [0x0e, 0x80]) ∧
    pcodec .aliveCheckResponse [0x0e] (hdr 0x0008 1) = .error .tooShort ∧
    (holding .default (acrBytes.take 9)).decPort = none ∧
    encPort .default (hdr 0x0008 2) .aliveCheckResponse (.aliveCheckResponse [0x0e, 0x80]) =
      some (.aliveCheckResponse, .aliveCheckResponse [0x0e, 0x80]) ∧
    (perform (.enc (hdr 0x0008 2) .aliveCheckResponse (.aliveCheckResponse [0x0e, 0x80])) .reset).res = .bytes .enc acrBytes ∧
    encPort .default ⟨0x02, 0xff, 0x0008, 2⟩ .aliveCheckResponse (.aliveCheckResponse [0x0e, 0x80]) = none := by decide
theorem witness_EmittedFrameIsWhatIsRemoved : ∃ t, exec .dec (holding .default (acrBytes ++ [0xaa])) = .next t ∧
    t.res = .frame (hdr 0x0008 2) .aliveCheckResponse (.aliveCheckResponse [0x0e, 0x80]) ∧ t.buf = [0xaa] :=
  ⟨_, rfl, by decide, by decide⟩
/-- A `DEC` that fails on a full buffer, and one that emits the last frame. -/
theorem witness_DecThatEmitsNothingIsIdempotent : (∃ t, exec .dec (holding (cap 9) (acrBytes.take 9)) = .next t ∧
      t.res.isFrame = false ∧ t.res = .error .bufferTooSmall) ∧
    ∃ t, exec .dec (holding .default acrBytes) = .next t ∧ t.res.isFrame = true ∧ t.level = 0 :=
  ⟨⟨_, rfl, by decide, by decide⟩, ⟨_, rfl, by decide, by decide⟩⟩
/-- Two buffers of one level that differ after the first frame. -/
theorem witness_DecDependsOnTheFirstFrameOnly : let s := holding .default (acrBytes ++ [0x00]); let t := holding .default (acrBytes ++ [0xff])
    s.cfg = t.cfg ∧ s.buf.length = t.buf.length ∧ s.buf.take 8 = t.buf.take 8 ∧ s.buf ≠ t.buf ∧
      ∀ h, hunpk s.cfg (s.buf.take 8) = .ok h → s.buf.take (frameTotal h) = t.buf.take (frameTotal h) := by
  refine ⟨rfl, rfl, rfl, by decide, fun h hh => ?_⟩
  have : hunpk .default (acrBytes.take 8) = .ok (hdr 0x0008 2) := by decide
  have e : (.ok (hdr 0x0008 2) : Except ErrorName Header) = .ok h := this.symm.trans hh
  cases e
  decide
/-- Eight bytes with a bad check byte, one below `MAX_FRAME_SIZE`. -/
theorem witness_PushDoesNotClearABadHeader : let s := holding (maxFrame 9) [0x02, 0xff, 0, 1, 0, 0, 0, 0]
    8 ≤ s.level ∧ hunpk s.cfg (s.buf.take 8) = .error .failedProtocolValidation ∧ s.level < s.cfg.maxFrameSize := by decide
/-- Capacity 7, full and one byte short of it; capacity and level at `MAX_FRAME_SIZE`; and there a declared size one past it. -/
theorem witness_SmallCapacities :
    let small := holding (cap 7) (acrBytes.take 7)
    let limit : Params := { maxFrame 10 with cap := some 10 }
    let tooLarge := holding limit [0x02, 0xfd, 0, 8, 0, 0, 0, 3, 0, 0]
    small.Inv ∧ small.cfg.cap = some 7 ∧ small.level = 7 ∧ (holding (cap 7) (acrBytes.take 6)).Inv ∧
      (holding limit acrBytes).Inv ∧ limit.cap = some 10 ∧ 10 ≤ limit.maxFrameSize ∧ tooLarge.Inv ∧
      (perform .dec tooLarge).res = .error .messageTooLarge :=
  ⟨⟨by decide, by decide, by decide⟩, rfl, rfl, ⟨by decide, by decide, by decide⟩, ⟨by decide, by decide, by decide⟩, rfl,
    by decide, ⟨by decide, by decide, by decide⟩, by decide⟩
theorem witness_UnboundedBufferNeverFills : (holding .default acrBytes).cfg.cap = none := by decide
/-- Three chunks of one frame and the first byte of a next, with `DEC` between them, in a buffer of capacity 10 that is
full at the second `DEC`. -/
theorem witness_ChunkingDoesNotMatter :
    let s := holding (cap 10) []
    let is := feed (acrBytes.take 4) ++ [.dec] ++ feed (acrBytes.drop 4) ++ [.dec] ++ feed [0x02]
    s.cfg.Valid ∧ s.buf = [] ∧ (∀ f ∈ [acr], f.Accepted s.cfg) ∧ PartialFrame s.cfg [0x02] ∧
      offered is = [acr].flatMap GoodFrame.wire ++ [0x02] ∧ DutiesMet (is ++ [.dec]) s ∧
      (performAll (is ++ [.dec]) s).res.isFrame = false := by
  have ha : acr.Accepted (cap 10) := acr_accepted (by decide) (by decide)
  refine ⟨by decide, rfl, fun f hf => ?_, .inr ⟨acr, ha.framed, by decide, by decide⟩, by decide, ?_, by decide⟩
  · rw [List.mem_singleton.1 hf]; exact ha
  · refine ⟨rfl, rfl, rfl, rfl, ⟨by decide, fun h => absurd h (by decide)⟩, rfl, rfl, rfl, rfl, rfl, rfl,
      ⟨by decide, fun _ => ⟨acr, ha, by decide⟩⟩, rfl, ⟨by decide, fun h => absurd h (by decide)⟩, trivial⟩
/-- A state of each kind of R204; the smallest capacity and the smallest maximum frame size that R5 allows, and the default. -/
theorem witness_DecClassifiesEveryState : FullyDecoded (holding .default []) ∧ AwaitingData (holding .default [0xaa]) ∧
    Failed (holding (cap 1) [0xaa]) ∧ (perform .dec (holding .default acrBytes)).res.isFrame = true ∧
    (cap 1).Valid ∧ (maxFrame 8).Valid ∧ Params.default.Valid :=
  ⟨⟨by decide, by decide⟩, ⟨by decide, by decide⟩, by unfold Failed; decide, by decide, by decide⟩
theorem witness_HpkFollowsItsPseudocode :
    (perform (.hpk (hdr 0x0008 2)) .reset).res = .bytes .hpk [0x02, 0xfd, 0, 8, 0, 0, 0, 2] ∧
    (perform (.hpk (hdr 0x0009 2)) .reset).res = .error .invalidPayloadType := by decide
theorem witness_EncFollowsItsPseudocode :
    (perform (.enc (hdr 0x0008 2) .aliveCheckResponse (.aliveCheckResponse [0x0e, 0x80])) .reset).res = .bytes .enc acrBytes ∧
    (perform (.enc (hdr 0x0008 3) .aliveCheckResponse (.aliveCheckResponse [0x0e, 0x80])) .reset).res =
      .error .payloadLengthValidation := by decide
theorem witness_EncEmitsConsistentMessages : hdrValid .default (hdr 0x0008 2) = true ∧
    (hdr 0x0008 2).type = Route.code .aliveCheckResponse ∧
    (penc .aliveCheckResponse (.aliveCheckResponse [0x0e, 0x80])).length = (hdr 0x0008 2).len.toNat := by decide
theorem witness_EncOutputIsAValidFrame : ∃ t, exec (.enc (hdr 0x0008 2) .aliveCheckResponse (.aliveCheckResponse [0x0e, 0x80]))
    (holding .default [1]) = .next t ∧ t.res = .bytes .enc acrBytes := ⟨_, rfl, by decide⟩
theorem witness_EncReportsFourErrors :
    (perform (.enc ⟨0x07, 0xf8, 0x0001, 0⟩ .vehicleIdentificationRequest .vehicleIdentificationRequest) .reset).res =
      .error .invalidProtocolVersion := by decide
/-- The frame fills the buffer and is as large as `MAX_FRAME_SIZE`. -/
theorem witness_EncodedMessageDecodesThroughTheBlock :
    let s := holding { maxFrame 10 with cap := some 10 } []
    (perform (.enc (hdr 0x0008 2) .aliveCheckResponse (.aliveCheckResponse [0x0e, 0x80])) s).res = .bytes .enc acrBytes ∧
      s.buf = [] ∧ frameTotal (hdr 0x0008 2) ≤ s.cfg.maxFrameSize ∧ (∀ n ∈ s.cfg.cap, frameTotal (hdr 0x0008 2) ≤ n) ∧
      pcodec .aliveCheckResponse (penc .aliveCheckResponse (.aliveCheckResponse [0x0e, 0x80])) (hdr 0x0008 2) =
        .ok (.aliveCheckResponse [0x0e, 0x80]) := by decide
theorem witness_CodeErrorsBelongToTheirRoute : hasSurplus .diagnosticMessageAck 5 = false ∧
    pcodec .diagnosticMessageAck [0, 0, 0, 0, 0x42] (hdr 0x8002 5) = .error (.invalid .diagnosticAckCode) := by decide
theorem witness_ResFieldsShowTheOutcome :
    (perform (.hpk (hdr 0x0008 2)) .reset).res = .bytes .hpk [0x02, 0xfd, 0, 8, 0, 0, 0, 2] := by decide
/-- An accepted payload of each of the two lengths. -/
theorem witness_SyncStatusOnlyInTheLongVariant :
    let short := List.replicate 31 0x41#8 ++ [Config.someCode .actionCode]
    let long := short ++ [Config.someCode .syncStatus]
    (∃ v, pcodec .vehicleAnnouncementMessage short (hdr 0x0004 32) = .ok v) ∧
      (∃ v, pcodec .vehicleAnnouncementMessage long (hdr 0x0004 33) = .ok v) ∧
      short.length = (hdr 0x0004 32).len.toNat ∧ long.length = (hdr 0x0004 33).len.toNat := by
  let value := Payload.vehicleAnnouncementMessage (List.replicate 17 0x41) [0x41, 0x41] (List.replicate 6 0x41)
    (List.replicate 6 0x41) (Config.someCode .actionCode)
  refine ⟨⟨value none, ?_⟩, ⟨value (some (Config.someCode .syncStatus)), ?_⟩, rfl, rfl⟩ <;>
    simp [value, pcodec, minLen, hasSurplus, maxLen, decodeFields, decodeVam, checkCode, checkSync, codeOk, evidencedCode,
      byteAt, sliceOf, hdr]
/-- Four bytes with a header that declares four, and three bytes. -/
theorem witness_DiagnosticMessageTakesTheRest : 4 ≤ ([0x0e, 0x80, 0x10, 0x01] : List Byte).length ∧
    ([0x0e, 0x80, 0x10, 0x01] : List Byte).length = (hdr 0x8001 4).len.toNat ∧ ([0x0e, 0x80, 0x10] : List Byte).length < 4 := by
  decide
theorem witness_ErrorChangesOnlyRes : ∃ t, exec (.hpk (hdr 0x1234 0)) (holding .default [1]) = .next t ∧
    t.res = .error .invalidPayloadType := ⟨_, rfl, by decide⟩
/-- A full buffer, a `SKIP` one past the level, and the boundary codes of the unassigned range. -/
theorem witness_RefusedMeansNotEnabled : (∃ t, exec (.skip 2) (holding .default [1]) = .next t ∧ t.res = .refused) ∧
    (holding (cap 1) [1]).full = true ∧ (holding .default [1]).level < 2 ∧ 0b1001 ≤ (select 0b1001).sel.toNat ∧
    0b1001 ≤ (select 0b1111).sel.toNat ∧ ¬ 0b1001 ≤ (select 0b1000).sel.toNat :=
  ⟨⟨_, rfl, by decide⟩, by decide, by decide, by decide, by decide, by decide⟩

end Sys2Proof.Tests
end

section
/-! Proofs about the state (10_state.md): which buffer bytes an instruction leaves where they are (O18), and what the payload
ports carry (O35). -/

namespace Sys2Proof.Machine

/-! ## The state each host operation leaves, branch by branch -/

theorem perform_rst (s : State) : perform .rst s = s.discardAll.answer .done := rfl

theorem perform_dec (s : State) : perform .dec s = finishDec s.phaseOfDec s := rfl

theorem perform_push_of_full {s : State} (b : Byte) (hf : s.full = true) :
    perform (.push b) s = s.answer .refused :=
  perform_of_exec (by simp [exec_push, hf])

theorem perform_push_of_not_full {s : State} (b : Byte) (hf : s.full = false) :
    perform (.push b) s = (s.appendByte b).answer .done :=
  perform_of_exec (by simp [exec_push, hf])

theorem perform_skip_of_le {s : State} {n : Nat} (hn : n ≤ s.level) :
    perform (.skip n) s = (s.removeHead n).answer .done :=
  perform_of_exec (by simp [exec_skip, Nat.not_lt.2 hn])

@[simp] theorem emitFrame_res (h : Header) (k : Route) (v : Payload) (s : State) :
    (emitFrame h k v s).res = .frame h k v := rfl

/-! ## Reading a byte after a change of the buffer -/

theorem State.readByte_appendByte_level (s : State) (b : Byte) : (s.appendByte b).readByte s.level = some b := by
  simp [State.readByte, State.level]

theorem State.readByte_discardAll (s : State) (a : Nat) : s.discardAll.readByte a = none := rfl

theorem State.readByte_countFrame (s : State) (a : Nat) : s.countFrame.readByte a = s.readByte a := rfl

/-- Emitting a complete frame moves every byte down by the frame's size. -/
theorem State.readByte_emitFrame {h : Header} {s : State} (hc : frameTotal h ≤ s.level) (k : Route) (v : Payload)
    (a : Nat) : (emitFrame h k v s).readByte a = s.readByte (a + frameTotal h) := by
  rw [emitFrame, State.readByte_answer, State.readByte_countFrame, State.readByte_removeHead, Nat.min_eq_left hc]

/-! ## Reading a byte after an instruction -/

theorem readByte_perform_push_of_ne {s : State} (b : Byte) {a : Nat} (ha : a ≠ s.level) :
    (perform (.push b) s).readByte a = s.readByte a := by
  cases hf : s.full with
  | true => rw [perform_push_of_full b hf, State.readByte_answer]
  | false => rw [perform_push_of_not_full b hf, State.readByte_answer, State.readByte_appendByte_of_ne s b a ha]

theorem readByte_perform_push_level {s : State} (b : Byte) (hf : s.full = false) :
    (perform (.push b) s).readByte s.level = some b := by
  rw [perform_push_of_not_full b hf, State.readByte_answer, State.readByte_appendByte_level]

theorem readByte_perform_skip {s : State} {n : Nat} (hn : n ≤ s.level) (a : Nat) :
    (perform (.skip n) s).readByte a = s.readByte (a + n) := by
  rw [perform_skip_of_le hn, State.readByte_answer, State.readByte_removeHead]

/-- Only an emitted frame is answered as one, so an answered frame has left from the head. -/
theorem readByte_perform_of_frame {i : Instr} {s : State} {h : Header} {k : Route} {v : Payload}
    (hr : (perform i s).res = .frame h k v) (a : Nat) :
    (perform i s).readByte a = s.readByte (a + frameTotal h) := by
  rcases perform_cases i s with ⟨o, -, ho, e⟩ | ⟨b, -, -, e⟩ | ⟨n, -, -, e⟩ | ⟨g, j, w, hg, e⟩ | ⟨-, e⟩ <;> rw [e] at hr ⊢
  · rw [State.answer_res] at hr
    simp [hr, OpOutcome.isFrame] at ho
  · cases hr
  · cases hr
  · cases hr
    exact State.readByte_emitFrame hg.complete _ _ a
  · cases hr

/-- An instruction that is no `PUSH`, no enabled `SKIP` and no `RST`, and that emits no frame, only answers. -/
theorem readByte_perform_of_no_change {i : Instr} {s : State} (hpush : ∀ b, i ≠ .push b)
    (hskip : ∀ n, i = .skip n → s.level < n) (hrst : i ≠ .rst) (hr : (perform i s).res.isFrame = false) (a : Nat) :
    (perform i s).readByte a = s.readByte a := by
  rcases perform_cases i s with ⟨o, -, -, e⟩ | ⟨b, hb, -, -⟩ | ⟨n, hn, hle, -⟩ | ⟨h, k, v, -, e⟩ | ⟨hi, -⟩
  · rw [e, State.readByte_answer]
  · exact absurd hb (hpush b)
  · exact absurd (hskip n hn) (Nat.not_lt.2 hle)
  · rw [e] at hr
    cases hr
  · exact absurd hi hrst

/-- Settles O18: each clause is one rule on what a read returns after an instruction. -/
theorem bufferBytesAreKept : Obligations.BufferBytesAreKept := by
  intro i s t hexec
  obtain rfl := perform_of_exec hexec
  refine ⟨?push, ?skip, fun h k v => readByte_perform_of_frame, ?rst, readByte_perform_of_no_change⟩
  case push =>
    rintro b rfl
    exact ⟨fun a => readByte_perform_push_of_ne b, readByte_perform_push_level b⟩
  case skip =>
    rintro n rfl hn
    exact readByte_perform_skip hn
  case rst =>
    rintro rfl a
    rw [perform_rst, State.readByte_answer, State.readByte_discardAll]

/-! ## The payload port of `DEC` -/

theorem State.decPort_eq_some_iff {s : State} {k : Route} {slice : List Byte} {h : Header} :
    s.decPort = some (k, slice, h) ↔ s.phaseOfDec = .dispatch h k slice := by
  unfold State.decPort
  cases s.phaseOfDec with
  | report o => simp
  | dispatch g j l => simp; tauto

theorem State.decPort_eq_none_iff {s : State} : s.decPort = none ↔ ∃ o, s.phaseOfDec = .report o := by
  unfold State.decPort
  cases s.phaseOfDec <;> simp

/-- The slice of a frame is its payload: the `h.len` bytes after the 8 of the header. -/
theorem sliceOf_frameTotal (buf : List Byte) (h : Header) :
    sliceOf buf 8 (frameTotal h) = (buf.drop 8).take h.len.toNat := by
  rw [sliceOf, frameTotal, Nat.add_sub_cancel_left]

/-- What `DEC` presents is the header unpacked from the head of the buffer, its route, and the payload after it. -/
theorem State.decPort_some {s : State} {k : Route} {slice : List Byte} {h : Header}
    (hp : s.decPort = some (k, slice, h)) :
    hunpk s.cfg (s.buf.take 8) = .ok h ∧ dsp h.type = .ok k ∧ slice = (s.buf.drop 8).take h.len.toNat ∧
      slice.length = h.len.toNat := by
  obtain ⟨-, hparsed, -, hcomplete, htype, rfl⟩ := decPhase_dispatch (State.decPort_eq_some_iff.1 hp)
  refine ⟨by simpa using hparsed, dsp_ok_iff.2 htype, sliceOf_frameTotal s.buf h, ?_⟩
  rw [frameTotal] at hcomplete
  rw [sliceOf_length, frameTotal]
  omega

theorem perform_dec_of_codec_error {s : State} {k : Route} {slice : List Byte} {h : Header} {e : PortError}
    (hp : s.decPort = some (k, slice, h)) (hc : pcodec k slice h = .error e) :
    perform .dec s = s.raise (portErrorName e) := by
  rw [perform_dec, State.decPort_eq_some_iff.1 hp, finishDec, hc]

theorem perform_dec_of_codec_ok {s : State} {k : Route} {slice : List Byte} {h : Header} {v : Payload}
    (hp : s.decPort = some (k, slice, h)) (hc : pcodec k slice h = .ok v) :
    perform .dec s = emitFrame h k v s := by
  rw [perform_dec, State.decPort_eq_some_iff.1 hp, finishDec, hc]

/-- A `DEC` that presents nothing ends in a report, which is no frame. -/
theorem perform_dec_not_frame_of_decPort_none {s : State} (hp : s.decPort = none) :
    (perform .dec s).res.isFrame = false := by
  obtain ⟨o, ho⟩ := State.decPort_eq_none_iff.1 hp
  have hres : (perform .dec s).res = o := by rw [perform_dec, ho, finishDec, State.answer_res]
  rw [hres]
  rcases decPhase_report_not_frame ho with rfl | ⟨e, rfl⟩ <;> rfl

/-! ## The payload port of `ENC` -/

theorem hpk_of_valid {c : Params} {h : Header} (hv : hdrValid c h = true) : hpk c h = .ok h.toBytes := by
  simp [hpk, headerCheck_of_valid hv]

theorem hpk_of_headerCheck_error {c : Params} {h : Header} {e : ErrorName} (hc : headerCheck c h = .error e) :
    hpk c h = .error e := by simp [hpk, hc]

/-- The ends of `ENC` beside what it presents: nothing on a wrong type or on the packer's error; else its value on the port
of its tag, with the frame or the length error after it. -/
theorem encPort_encOutcome_cases (c : Params) (h : Header) (kp : Route) (v : Payload) :
    (encPort c h kp v = none ∧ encOutcome c h kp v = .error .payloadTypeValidation) ∨
    (∃ e, encPort c h kp v = none ∧ hpk c h = .error e ∧ encOutcome c h kp v = .error e) ∨
    (encPort c h kp v = some (kp, v) ∧ dsp h.type = .ok kp ∧ hpk c h = .ok h.toBytes ∧
      (encOutcome c h kp v = .bytes .enc (h.toBytes ++ penc kp v) ∨
        encOutcome c h kp v = .error .payloadLengthValidation)) := by
  rcases encHeader_cases c h kp with ⟨-, hh⟩ | ⟨e, -, hc, hh⟩ | ⟨hd, hv, hh⟩
  · exact .inl ⟨by simp [encPort, hh], by simp [encOutcome, encFrame, hh]⟩
  · exact .inr (.inl ⟨e, by simp [encPort, hh], hpk_of_headerCheck_error hc, by simp [encOutcome, encFrame, hh]⟩)
  · refine .inr (.inr ⟨by simp [encPort, hh], hd, hpk_of_valid hv, ?_⟩)
    by_cases hl : (penc kp v).length = h.len.toNat <;> simp [encOutcome, encFrame, hh, hl]

/-- `ENC` gives a frame only after it has presented its value, and the value's bytes stand after the header. -/
theorem encPort_of_encOutcome_bytes {c : Params} {h : Header} {kp : Route} {v : Payload} {f : List Byte}
    (hf : encOutcome c h kp v = .bytes .enc f) : encPort c h kp v = some (kp, v) ∧ f.drop 8 = penc kp v := by
  rcases encPort_encOutcome_cases c h kp v with ⟨-, e⟩ | ⟨_, -, -, e⟩ | ⟨hp, -, -, e | e⟩ <;> rw [e] at hf <;> cases hf
  exact ⟨hp, List.drop_left' h.toBytes_length⟩

theorem encOutcome_of_encPort_none {c : Params} {h : Header} {kp : Route} {v : Payload}
    (hn : encPort c h kp v = none) :
    encOutcome c h kp v = .error .payloadTypeValidation ∨
      ∃ e, hpk c h = .error e ∧ encOutcome c h kp v = .error e := by
  rcases encPort_encOutcome_cases c h kp v with ⟨-, ho⟩ | ⟨e, -, hk, ho⟩ | ⟨hp, -⟩
  · exact .inl ho
  · exact .inr ⟨e, hk, ho⟩
  · rw [hp] at hn
    cases hn

theorem encOutcome_of_encPort_some {c : Params} {h : Header} {kp j : Route} {v w : Payload}
    (hs : encPort c h kp v = some (j, w)) :
    dsp h.type = .ok kp ∧ j = kp ∧ w = v ∧ hpk c h = .ok h.toBytes ∧
      (encOutcome c h kp v = .bytes .enc (h.toBytes ++ penc j w) ∨
        encOutcome c h kp v = .error .payloadLengthValidation) := by
  rcases encPort_encOutcome_cases c h kp v with ⟨hp, -⟩ | ⟨_, hp, -⟩ | ⟨hp, hd, hk, ho⟩ <;> rw [hp] at hs <;> cases hs
  exact ⟨hd, rfl, rfl, hk, ho⟩

/-- Settles O35: the presented slice comes from the end of the phases of `DEC`, the encode side from the ends of `ENC`. -/
theorem payloadPortCarriesTheSlice : Obligations.PayloadPortCarriesTheSlice := by
  refine ⟨?presents, fun s => perform_dec_not_frame_of_decPort_none, ?enc⟩
  case presents =>
    intro s k slice h hp
    obtain ⟨hparsed, hroute, hslice, hlength⟩ := State.decPort_some hp
    refine ⟨hparsed, hroute, hslice, hlength, fun e => perform_dec_of_codec_error hp, fun v hc => ?_⟩
    rw [perform_dec_of_codec_ok hp hc, emitFrame_res]
  case enc =>
    intro s t h kp v hexec
    rw [exec_enc] at hexec
    cases hexec
    rw [State.answer_res]
    exact ⟨fun f => encPort_of_encOutcome_bytes, encOutcome_of_encPort_none, fun j w => encOutcome_of_encPort_some⟩

end Sys2Proof.Machine
end

section
/-! Proofs about the memory (20_memory.md): the byte order of the header fields (O20). -/

namespace Sys2Proof.Machine

/-! ## The number a sequence of bytes stands for -/

/-- The left part of a concatenation counts in units of the right part's range. -/
theorem toNat_append_eq_mul_add {m n : Nat} (x : BitVec m) (y : BitVec n) :
    (x ++ y).toNat = x.toNat * 2 ^ n + y.toNat := by
  rw [BitVec.toNat_append, ← Nat.shiftLeft_add_eq_or_of_lt y.isLt, Nat.shiftLeft_eq]

theorem be16_toNat (b0 b1 : Byte) : (be16 b0 b1).toNat = b0.toNat * 256 + b1.toNat :=
  toNat_append_eq_mul_add b0 b1

theorem be32_toNat (b0 b1 b2 b3 : Byte) :
    (be32 b0 b1 b2 b3).toNat = b0.toNat * 2 ^ 24 + b1.toNat * 2 ^ 16 + b2.toNat * 2 ^ 8 + b3.toNat := by
  have halves : (be32 b0 b1 b2 b3).toNat = (be16 b0 b1).toNat * 2 ^ 16 + (be16 b2 b3).toNat :=
    toNat_append_eq_mul_add (be16 b0 b1) (be16 b2 b3)
  rw [halves, be16_toNat, be16_toNat]
  omega

/-! ## The header at the head of a sequence of bytes -/

/-- The header is made of the bytes at offsets 0 to 7, each field of those at its own (R51). -/
theorem header_eq_of_ofBytes {l : List Byte} {h : Header} (hl : Header.ofBytes l = some h) :
    h = ⟨byteAt l 0, byteAt l 1, be16 (byteAt l 2) (byteAt l 3),
      be32 (byteAt l 4) (byteAt l 5) (byteAt l 6) (byteAt l 7)⟩ := by
  have hlen : 8 ≤ l.length := by
    rw [← Nat.not_lt, ← Header.ofBytes_eq_none_iff, hl]
    exact Option.some_ne_none h
  match l, hlen with
  | _ :: _ :: _ :: _ :: _ :: _ :: _ :: _ :: _, _ => exact (Option.some.inj hl).symm

/-- Settles O20: each field is `be16` or `be32` of the bytes at its offsets, and these weigh the lower offset more. -/
theorem fieldsAreBigEndian : Obligations.FieldsAreBigEndian := by
  intro s h hhead
  obtain rfl := header_eq_of_ofBytes hhead
  exact ⟨be16_toNat _ _, be32_toNat _ _ _ _⟩

end Sys2Proof.Machine
end

section
/-! Proofs about the encoding (30_encoding.md): the header's field maps (O4), the header word (O5), and how a row of the type
table is selected (O6). -/

namespace Sys2Proof

/-! ## Big-endian joining and splitting are inverse (R6) -/

@[simp] theorem toBe16_be16 (b0 b1 : Byte) : toBe16 (be16 b0 b1) = [b0, b1] := by
  simp only [toBe16, be16, BitVec.extractLsb'_append_eq_left, BitVec.extractLsb'_append_eq_right]

@[simp] theorem be16_extractLsb' (t : TypeCode) : be16 (t.extractLsb' 8 8) (t.extractLsb' 0 8) = t :=
  BitVec.extractLsb'_append_extractLsb'

theorem toBe32_append (high low : TypeCode) : toBe32 (high ++ low) = toBe16 high ++ toBe16 low := by
  have ofHigh (start : Nat) (hs : 16 ≤ start) : (high ++ low).extractLsb' start 8 = high.extractLsb' (start - 16) 8 :=
    BitVec.extractLsb'_append_eq_of_le hs
  have ofLow (start : Nat) (hs : start + 8 ≤ 16) : (high ++ low).extractLsb' start 8 = low.extractLsb' start 8 :=
    BitVec.extractLsb'_append_eq_of_add_le hs
  rw [toBe32, ofHigh 24 (by decide), ofHigh 16 (by decide), ofLow 8 (by decide), ofLow 0 (by decide)]
  rfl

@[simp] theorem toBe32_be32 (b0 b1 b2 b3 : Byte) : toBe32 (be32 b0 b1 b2 b3) = [b0, b1, b2, b3] := by
  have halves : be32 b0 b1 b2 b3 = be16 b0 b1 ++ be16 b2 b3 := rfl
  rw [halves, toBe32_append, toBe16_be16, toBe16_be16, List.cons_append, List.singleton_append]

@[simp] theorem be32_extractLsb' (l : PayloadLen) :
    be32 (l.extractLsb' 24 8) (l.extractLsb' 16 8) (l.extractLsb' 8 8) (l.extractLsb' 0 8) = l := by
  have high : l.extractLsb' 24 8 ++ l.extractLsb' 16 8 = l.extractLsb' 16 16 :=
    BitVec.extractLsb'_append_extractLsb'_eq_extractLsb' rfl
  have low : l.extractLsb' 8 8 ++ l.extractLsb' 0 8 = l.extractLsb' 0 16 :=
    BitVec.extractLsb'_append_extractLsb'_eq_extractLsb' rfl
  rw [be32, high, low, BitVec.extractLsb'_append_extractLsb']

/-! ## The field maps of a header (R51) -/

@[simp] theorem Header.ofBytes_toBytes (h : Header) : Header.ofBytes h.toBytes = some h := by
  simp [Header.toBytes, toBe16, toBe32, Header.ofBytes]

/-- The first 8 bytes of a sequence unpack to a header, and it packs to those bytes. -/
theorem Header.exists_ofBytes_toBytes {l : List Byte} (hl : 8 ≤ l.length) :
    ∃ h, Header.ofBytes l = some h ∧ h.toBytes = l.take 8 := by
  match l, hl with
  | _ :: _ :: _ :: _ :: _ :: _ :: _ :: _ :: _, _ => exact ⟨_, rfl, by simp [Header.toBytes]⟩

/-- Settles O4: `be16` and `be32` are inverse to `toBe16` and `toBe32`, so the header maps made of them are inverse too. -/
theorem headerFieldMapsAreInverse : Obligations.HeaderFieldMapsAreInverse := by
  refine ⟨?unpack, fun h => rfl, Header.ofBytes_toBytes, ?packUnpack⟩
  case unpack =>
    intro b0 b1 b2 b3 b4 b5 b6 b7
    exact ⟨_, rfl, rfl, rfl, Machine.be16_toNat b2 b3, Machine.be32_toNat b4 b5 b6 b7⟩
  case packUnpack =>
    intro b hb
    obtain ⟨h, hunpacked, hpacked⟩ := Header.exists_ofBytes_toBytes hb.ge
    exact ⟨h, hunpacked, hpacked.trans (List.take_of_length_le hb.le)⟩

/-! ## The header word (R50) -/

/-- The bits `W[63:48]` are the version byte and the check byte. -/
theorem Header.toWord_extractLsb'_of_version (h : Header) {start len : Nat} :
    h.toWord.extractLsb' (48 + start) len = (h.ver ++ h.inv).extractLsb' start len := by
  have skipLen : h.toWord.extractLsb' (48 + start) len = (h.ver ++ h.inv ++ h.type).extractLsb' (48 + start - 32) len :=
    BitVec.extractLsb'_append_eq_of_le (by omega)
  rw [skipLen, BitVec.extractLsb'_append_eq_of_le (by omega)]
  congr 1
  omega

/-- Any slice of the bits `W[47:32]` is a slice of the type. -/
theorem Header.toWord_extractLsb'_of_type (h : Header) {start len : Nat} (hl : start + len ≤ 16) :
    h.toWord.extractLsb' (32 + start) len = h.type.extractLsb' start len := by
  rw [Header.toWord, BitVec.extractLsb'_append_eq_of_le (Nat.le_add_right 32 start), Nat.add_sub_cancel_left,
    BitVec.extractLsb'_append_eq_of_add_le hl]

/-- Any slice of the bits `W[31:0]` is a slice of the payload length. -/
theorem Header.toWord_extractLsb'_of_len (h : Header) {start len : Nat} (hl : start + len ≤ 32) :
    h.toWord.extractLsb' start len = h.len.extractLsb' start len :=
  BitVec.extractLsb'_append_eq_of_add_le hl

@[simp] theorem Header.toWord_extractLsb'_ver (h : Header) : h.toWord.extractLsb' 56 8 = h.ver :=
  (h.toWord_extractLsb'_of_version (start := 8)).trans BitVec.extractLsb'_append_eq_left

@[simp] theorem Header.toWord_extractLsb'_inv (h : Header) : h.toWord.extractLsb' 48 8 = h.inv :=
  (h.toWord_extractLsb'_of_version (start := 0)).trans BitVec.extractLsb'_append_eq_right

@[simp] theorem Header.toWord_extractLsb'_type (h : Header) : h.toWord.extractLsb' 32 16 = h.type :=
  (h.toWord_extractLsb'_of_type (start := 0) (by decide)).trans BitVec.extractLsb'_eq_self

@[simp] theorem Header.toWord_extractLsb'_len (h : Header) : h.toWord.extractLsb' 0 32 = h.len :=
  (h.toWord_extractLsb'_of_len (by decide)).trans BitVec.extractLsb'_eq_self

/-- The bytes of the header word are those of the header: the type and the length go over byte by byte. -/
theorem wordBytes_toWord (h : Header) : wordBytes h.toWord = h.toBytes := by
  have typeHigh := h.toWord_extractLsb'_of_type (start := 8) (len := 8) (by decide)
  have typeLow := h.toWord_extractLsb'_of_type (start := 0) (len := 8) (by decide)
  have lenByte (start : Nat) (hs : start + 8 ≤ 32) := h.toWord_extractLsb'_of_len hs
  simp [wordBytes, Header.toBytes, toBe16, toBe32, typeHigh, typeLow, lenByte]

/-- Settles O5: one lemma per field, each a slice of the concatenation `VER`, `INV`, `TYPE`, `LEN`. -/
theorem headerWordHoldsFourFields : Obligations.HeaderWordHoldsFourFields := fun h =>
  ⟨h.toWord_extractLsb'_ver, h.toWord_extractLsb'_inv, h.toWord_extractLsb'_type, h.toWord_extractLsb'_len,
    wordBytes_toWord h⟩

/-! ## Selecting a row of the type table (R55) -/

/-- A row's match value is the header word with the row's code as its type and every other field 0. -/
theorem Route.rowMatch_eq_toWord (k : Route) : k.rowMatch = Header.toWord ⟨0, 0, k.code, 0⟩ := by
  cases k <;> rfl

/-- The mask keeps the type of a header word and clears the other fields. -/
theorem Header.toWord_and_rowMask (h : Header) : h.toWord &&& Route.rowMask = Header.toWord ⟨0, 0, h.type, 0⟩ := by
  calc h.toWord &&& Route.rowMask
      = (h.ver ++ h.inv ++ h.type ++ h.len) &&& (0#8 ++ 0#8 ++ BitVec.allOnes 16 ++ 0#32) := rfl
    _ = (h.ver &&& 0#8) ++ (h.inv &&& 0#8) ++ (h.type &&& BitVec.allOnes 16) ++ (h.len &&& 0#32) := by
      simp only [BitVec.and_append]
    _ = 0#8 ++ 0#8 ++ h.type ++ 0#32 := by
      simp only [BitVec.and_zero, BitVec.and_allOnes]

/-- Selection by mask and match compares the type alone, since the word shows its type. -/
theorem Header.toWord_and_rowMask_eq_rowMatch_iff (h : Header) (k : Route) :
    h.toWord &&& Route.rowMask = k.rowMatch ↔ h.type = k.code := by
  rw [Header.toWord_and_rowMask, Route.rowMatch_eq_toWord]
  refine ⟨fun hw => ?_, fun ht => by rw [ht]⟩
  have htype := congrArg (BitVec.extractLsb' 32 16) hw
  rwa [Header.toWord_extractLsb'_type, Header.toWord_extractLsb'_type] at htype

/-- Settles O6: the columns of the table are read off row by row; the selection is the lemma before. -/
theorem tableRowIsSelectedByTypeCode : Obligations.TableRowIsSelectedByTypeCode :=
  ⟨rfl, rfl, rfl, rfl, rfl, Header.toWord_and_rowMask_eq_rowMatch_iff⟩

end Sys2Proof
end

section
/-! Proofs about the header codec (40_header_codec.md): what `HUNPK` (O21) and `HPK` (O22) answer. -/

namespace Sys2Proof.Machine

/-! ## The header checks, in their order -/

/-- The first check that fails is the one reported (R77). -/
theorem headerCheck_eq_ite (c : Params) (h : Header) :
    headerCheck c h =
      if h.ver ∉ c.versionCodes then .error .invalidProtocolVersion
      else if h.inv ≠ ~~~h.ver then .error .failedProtocolValidation
      else if h.type ∉ typeCodes then .error .invalidPayloadType
      else .ok h := by
  rcases headerCheck_cases c h with ⟨hver, e⟩ | ⟨hver, hinv, e⟩ | ⟨hver, hinv, htype, e⟩ | ⟨hvalid, e⟩
  · rw [e, if_pos hver]
  · rw [e, if_neg (not_not_intro hver), if_pos hinv]
  · rw [e, if_neg (not_not_intro hver), if_neg (not_not_intro hinv), if_pos htype]
  · obtain ⟨hver, hinv, htype⟩ := hdrValid_iff.1 hvalid
    rw [e, if_neg (not_not_intro hver), if_neg (not_not_intro hinv), if_neg (not_not_intro htype)]

/-! ## Unpacking (R71) -/

theorem be16_eq_ofNat (b0 b1 : Byte) : be16 b0 b1 = BitVec.ofNat 16 (b0.toNat * 256 + b1.toNat) := by
  rw [← be16_toNat, BitVec.ofNat_toNat, BitVec.setWidth_eq]

theorem be32_eq_ofNat (b0 b1 b2 b3 : Byte) :
    be32 b0 b1 b2 b3 =
      BitVec.ofNat 32 (b0.toNat * 2 ^ 24 + b1.toNat * 2 ^ 16 + b2.toNat * 2 ^ 8 + b3.toNat) := by
  rw [← be32_toNat, BitVec.ofNat_toNat, BitVec.setWidth_eq]

/-- From 8 bytes on there is a header, and its fields are the numbers that the bytes at their offsets stand for. -/
theorem ofBytes_eq_some_of_length {l : List Byte} (hl : 8 ≤ l.length) :
    Header.ofBytes l = some ⟨byteAt l 0, byteAt l 1,
      BitVec.ofNat 16 ((byteAt l 2).toNat * 256 + (byteAt l 3).toNat),
      BitVec.ofNat 32 ((byteAt l 4).toNat * 2 ^ 24 + (byteAt l 5).toNat * 2 ^ 16 +
        (byteAt l 6).toNat * 2 ^ 8 + (byteAt l 7).toNat)⟩ := by
  obtain ⟨h, hunpacked, -⟩ := Header.exists_ofBytes_toBytes hl
  rw [hunpacked, header_eq_of_ofBytes hunpacked, be16_eq_ofNat, be32_eq_ofNat]

theorem hunpkOutcome_of_short {c : Params} {l : List Byte} (hl : l.length < 8) :
    hunpkOutcome c l = .error .tooShort := by
  rw [hunpkOutcome, hunpk_of_short hl]

theorem hunpkOutcome_of_ofBytes {c : Params} {l : List Byte} {h : Header} (hl : Header.ofBytes l = some h) :
    hunpkOutcome c l =
      if h.ver ∉ c.versionCodes then .error .invalidProtocolVersion
      else if h.inv ≠ ~~~h.ver then .error .failedProtocolValidation
      else if h.type ∉ typeCodes then .error .invalidPayloadType
      else .header h := by
  rw [hunpkOutcome, hunpk_of_ofBytes hl, headerCheck_eq_ite]
  split_ifs <;> rfl

/-- Settles O21: below 8 bytes there is no header; from 8 on it is the header of the bytes that is checked. -/
theorem hunpkFollowsItsPseudocode : Obligations.HunpkFollowsItsPseudocode := by
  intro b s
  rw [exec_hunpk]
  rcases Nat.lt_or_ge b.length 8 with hshort | hlong
  · rw [hunpkOutcome_of_short hshort, if_pos hshort]
    rfl
  · rw [hunpkOutcome_of_ofBytes (ofBytes_eq_some_of_length hlong), if_neg (Nat.not_lt.2 hlong)]
    rfl

/-! ## Packing (R79), and what is driven on `OUT` -/

theorem hpkOutcome_eq_ite (c : Params) (h : Header) :
    hpkOutcome c h =
      if h.ver ∉ c.versionCodes then .error .invalidProtocolVersion
      else if h.inv ≠ ~~~h.ver then .error .failedProtocolValidation
      else if h.type ∉ typeCodes then .error .invalidPayloadType
      else .bytes .hpk h.toBytes := by
  rw [hpkOutcome, hpk, headerCheck_eq_ite]
  split_ifs <;> rfl

theorem State.out_of_res_bytes {s : State} {p : Packer} {b : List Byte} (hr : s.res = .bytes p b) : s.out = b := by
  rw [State.out, hr]

theorem State.out_of_res_error {s : State} {e : ErrorName} (hr : s.res = .error e) : s.out = [] := by
  rw [State.out, hr]

/-- Settles O22: the answer is the checks' first error or the header's bytes, and `OUT` shows the bytes of the answer. -/
theorem hpkFollowsItsPseudocode : Obligations.HpkFollowsItsPseudocode := by
  intro h s
  refine ⟨?answer, fun b => State.out_of_res_bytes, fun e => State.out_of_res_error⟩
  case answer =>
    rw [exec_hpk, hpkOutcome_eq_ite]
    rfl

end Sys2Proof.Machine
end

section
/-! Proofs about the dispatcher (41_dispatcher.md): its laws (O28), and what `DSP` (O26) and `DSPINV` (O27) answer. -/

namespace Sys2Proof.Machine

/-! ## The laws of the dispatcher (R93) -/

/-- `dsp` is injective on the codes: a code has a route, and a value with that route is the route's one code. -/
theorem dsp_injective_on_typeCodes {t u : TypeCode} (ht : t ∈ typeCodes) (heq : dsp t = dsp u) : t = u := by
  obtain ⟨k, rfl⟩ := mem_typeCodes_iff.1 ht
  have hu : dsp u = .ok k := heq.symm.trans (dsp_code k)
  exact (dsp_ok_iff.1 hu).symm

/-- Settles O28: `dsp t` is the route `k` exactly when `t` is its code, and no value outside the codes has a route. -/
theorem dispatcherIsABijection : Obligations.DispatcherIsABijection :=
  ⟨dsp_code, fun _ _ h => (dsp_ok_iff.1 h).symm, fun _ _ => dsp_injective_on_typeCodes, fun _ => dsp_of_not_mem⟩

/-! ## From code to route (R91) -/

@[simp] theorem dspOutcome_code (k : Route) : dspOutcome k.code = .route k := by
  rw [dspOutcome, dsp_code]

theorem dspOutcome_of_not_mem {t : TypeCode} (h : t ∉ typeCodes) : dspOutcome t = .error .invalidPayloadType := by
  rw [dspOutcome, dsp_of_not_mem h]

/-- Settles O26: `DSP` writes its outcome into `RES`; the outcome is the dispatcher's, on a code and off the codes. -/
theorem dspSelectsTheRoute : Obligations.DspSelectsTheRoute := by
  intro t s
  rw [exec_dsp]
  refine ⟨?code, ?noCode⟩
  case code =>
    rintro k rfl
    rw [dspOutcome_code, State.answer]
  case noCode =>
    intro h
    have hmem : t ∉ typeCodes := fun ht => (mem_typeCodes_iff.1 ht).elim h
    rw [dspOutcome_of_not_mem hmem, State.answer]

/-! ## From route to code (R92) -/

/-- A route's number is its place in the table's order (R90). -/
theorem Route.all_getElem?_index (k : Route) : Route.all[k.index.toNat]? = some k := by
  cases k <;> rfl

/-- Settles O27: `DSPINV` writes the route's code into `RES`, and that is the code at the route's place in the table. -/
theorem dspinvGivesTheCode : Obligations.DspinvGivesTheCode := by
  intro k s
  refine ⟨exec_dspinv s k, ?_⟩
  rw [typeCodes, List.getElem?_map, Route.all_getElem?_index, Option.map_some]

end Sys2Proof.Machine
end

section
/-! Proofs about the framing decoder (42_framing_decoder.md): what `PUSH` (O29), `SKIP` (O30) and `DEC` (O31) do, and the frame
`DEC` emits (O32). -/

namespace Sys2Proof.Machine

/-! ## Bytes that join at the tail (R115) and leave from the head (R117) -/

theorem State.full_iff {s : State} : s.full = true ↔ s.cfg.cap = some s.buf.length := atCapacity_iff

theorem perform_skip_of_lt {s : State} {n : Nat} (hn : s.level < n) : perform (.skip n) s = s.answer .refused :=
  perform_of_exec (by rw [exec_skip, if_pos hn])

/-- Settles O29: `full` is `LEN = CAP`, and it alone decides between the two ends of `PUSH`. -/
theorem pushAppendsOrIsRefused : Obligations.PushAppendsOrIsRefused := by
  intro b s
  rw [exec_eq_perform, ← State.full_iff, ne_eq, ← State.full_iff, Bool.not_eq_true]
  refine ⟨fun hroom => ?_, fun hfull => ?_⟩
  · rw [perform_push_of_not_full b hroom]
    rfl
  · rw [perform_push_of_full b hfull]
    rfl

/-- Settles O30: the level decides between the two ends of `SKIP`. -/
theorem skipDiscardsFromTheHead : Obligations.SkipDiscardsFromTheHead := by
  intro n s
  rw [exec_eq_perform]
  refine ⟨fun hle => ?_, fun hlt => ?_⟩
  · rw [perform_skip_of_le hle]
    rfl
  · rw [perform_skip_of_lt hlt]
    rfl

/-! ## `DEC`, end by end (R102) -/

/-- A `DEC` unpacks the first 8 bytes of the buffer. -/
theorem State.phaseOfDec_eq (s : State) :
    s.phaseOfDec = decPhase s.cfg s.buf (hunpk s.cfg (s.buf.take 8)) := by
  rw [State.phaseOfDec, sliceOf_zero]

/-- A `DEC` that needs more data reports whether it can still come (R114). -/
theorem State.answer_needMoreData (s : State) (n : Nat) :
    s.answer (needMoreData s.cfg n) =
      if s.cfg.cap = some n then { s with res := .error .bufferTooSmall } else { s with res := .incomplete } := by
  rcases needMoreData_cases s.cfg n with ⟨hcap, e⟩ | ⟨hcap, e⟩
  · rw [e, if_pos hcap, State.answer]
  · rw [e, if_neg hcap, State.answer]

theorem finishDec_report (o : OpOutcome) (s : State) : finishDec (.report o) s = s.answer o := rfl

theorem finishDec_dispatch_of_error {h : Header} {k : Route} {slice : List Byte} {e : PortError} (s : State)
    (hc : pcodec k slice h = .error e) : finishDec (.dispatch h k slice) s = s.raise (portErrorName e) := by
  rw [finishDec, hc]

theorem finishDec_dispatch_of_ok {h : Header} {k : Route} {slice : List Byte} {v : Payload} (s : State)
    (hc : pcodec k slice h = .ok v) : finishDec (.dispatch h k slice) s = emitFrame h k v s := by
  rw [finishDec, hc]

theorem eight_le_frameTotal (h : Header) : 8 ≤ frameTotal h := Nat.le_add_right 8 h.len.toNat

/-- Settles O31: the ends of the phases of `DEC` are the ends of the pseudocode, each under the same conditions. -/
theorem decFollowsItsPseudocode : Obligations.DecFollowsItsPseudocode := by
  intro s
  rw [exec_dec, State.phaseOfDec_eq]
  congr 1
  rcases decPhase_cases s.cfg s.buf (hunpk s.cfg (s.buf.take 8)) with ⟨hlong, e⟩ | ⟨hguard, hshort, e⟩ |
    ⟨er, hguard, hlen, hparsed, e⟩ | ⟨h, hguard, hlen, hparsed, hbig, e⟩ | ⟨h, hguard, hlen, hparsed, hfits, hpart, e⟩ |
    ⟨h, er, hguard, hparsed, hfits, hcomplete, hroute, e⟩ | ⟨h, k, hguard, hparsed, hfits, hcomplete, hroute, e⟩
  all_goals rw [e]
  · rw [finishDec_report, if_pos hlong, State.answer]
  · rw [finishDec_report, State.answer_needMoreData, if_neg hguard.not_gt, if_pos hshort]
  · rw [finishDec_report, if_neg hguard.not_gt, if_neg hlen.not_gt, hparsed, State.answer]
  · rw [finishDec_report, if_neg hguard.not_gt, if_neg hlen.not_gt, hparsed]
    exact (if_pos hbig).symm
  · rw [finishDec_report, State.answer_needMoreData, if_neg hguard.not_gt, if_neg hlen.not_gt, hparsed]
    exact ((if_neg hfits.not_gt).trans (if_pos hpart)).symm
  · have hlen : 8 ≤ s.buf.length := (eight_le_frameTotal h).trans hcomplete
    rw [finishDec_report, if_neg hguard.not_gt, if_neg hlen.not_gt, hparsed]
    rw [frameTotal] at hfits hcomplete
    dsimp only
    rw [if_neg hfits.not_gt, if_neg hcomplete.not_gt, hroute, State.answer]
  · have hlen : 8 ≤ s.buf.length := (eight_le_frameTotal h).trans hcomplete
    rw [sliceOf_frameTotal, if_neg hguard.not_gt, if_neg hlen.not_gt, hparsed]
    rw [frameTotal] at hfits hcomplete
    dsimp only
    rw [if_neg hfits.not_gt, if_neg hcomplete.not_gt, hroute]
    dsimp only
    cases hc : pcodec k ((s.buf.drop 8).take h.len.toNat) h with
    | error er => exact finishDec_dispatch_of_error s hc
    | ok v => exact finishDec_dispatch_of_ok s hc

/-! ## The frame at the head of the buffer (R111) -/

theorem GoodFrame.Framed.wire_length {c : Params} {f : GoodFrame} (hf : f.Framed c) :
    f.wire.length = frameTotal f.header := by
  rw [GoodFrame.wire, List.length_append, Header.toBytes_length, hf.length, frameTotal]

/-- A buffer that begins with a valid frame unpacks to its header, since the header packs to the first 8 bytes. -/
theorem GoodFrame.Framed.hunpk_wire {c : Params} {f : GoodFrame} (hf : f.Framed c) (rest : List Byte) :
    hunpk c ((f.wire ++ rest).take 8) = .ok f.header := by
  have head : (f.wire ++ rest).take 8 = f.header.toBytes := by
    rw [GoodFrame.wire, List.append_assoc, List.take_left' f.header.toBytes_length]
  rw [head, hunpk_of_ofBytes f.header.ofBytes_toBytes, headerCheck_of_valid hf.valid]

/-- The payload slice of a frame at the head of the buffer is the frame's own. -/
theorem GoodFrame.Framed.sliceOf_wire {c : Params} {f : GoodFrame} (hf : f.Framed c) (rest : List Byte) :
    sliceOf (f.wire ++ rest) 8 (frameTotal f.header) = f.slice := by
  rw [sliceOf_frameTotal, GoodFrame.wire, List.append_assoc, List.drop_left' f.header.toBytes_length,
    List.take_left' hf.length]

/-- A frame at the head of a buffer within `MAX_FRAME_SIZE` passes every check up to Dispatch (R110). -/
theorem GoodFrame.Framed.decPhase_wire {c : Params} {f : GoodFrame} {rest : List Byte} (hf : f.Framed c)
    (hguard : (f.wire ++ rest).length ≤ c.maxFrameSize) :
    decPhase c (f.wire ++ rest) (.ok f.header) = .dispatch f.header f.route f.slice := by
  have hcomplete : frameTotal f.header ≤ (f.wire ++ rest).length := by
    rw [List.length_append, hf.wire_length]
    exact Nat.le_add_right _ _
  have hroute : dsp f.header.type = .ok f.route := dsp_ok_iff.2 hf.typed
  rw [decPhase, if_neg hguard.not_gt, if_neg ((eight_le_frameTotal f.header).trans hcomplete).not_gt,
    if_neg hf.bounded.not_gt, if_neg hcomplete.not_gt, hroute, hf.sliceOf_wire]

/-- Emitting the frame at the head leaves the bytes after it. -/
theorem GoodFrame.Framed.emitFrame_wire {s : State} {f : GoodFrame} {rest : List Byte} (hf : f.Framed s.cfg)
    (hbuf : s.buf = f.wire ++ rest) (v : Payload) :
    emitFrame f.header f.route v s = { s with
      buf := rest, consumed := s.consumed + frameTotal f.header, frames := s.frames + 1,
      res := .frame f.header f.route v } := by
  have hcomplete : frameTotal f.header ≤ s.level := by
    rw [State.level, hbuf, List.length_append, hf.wire_length]
    exact Nat.le_add_right _ _
  rw [emitFrame_of_complete hcomplete, hbuf, List.drop_left' hf.wire_length]

/-- An accepted frame at the head is emitted, whoever unpacked its header: `DEC` or the frame's own kind. -/
theorem GoodFrame.Accepted.finishDec_wire {s : State} {f : GoodFrame} {rest : List Byte} (hf : f.Accepted s.cfg)
    (hbuf : s.buf = f.wire ++ rest) (hguard : s.buf.length ≤ s.cfg.maxFrameSize) :
    finishDec (decPhase s.cfg s.buf (.ok f.header)) s = { s with
      buf := rest, consumed := s.consumed + frameTotal f.header, frames := s.frames + 1,
      res := .frame f.header f.route f.value } := by
  have hphase : decPhase s.cfg s.buf (.ok f.header) = .dispatch f.header f.route f.slice := by
    rw [hbuf] at hguard ⊢
    exact hf.framed.decPhase_wire hguard
  rw [hphase, finishDec_dispatch_of_ok s hf.decoded, hf.framed.emitFrame_wire hbuf]

/-- Settles O32: the head of the buffer unpacks to the frame's header, and the accepted frame is emitted. -/
theorem decEmitsTheFrameAtTheHead : Obligations.DecEmitsTheFrameAtTheHead := by
  intro s f rest hf hbuf hguard
  have hparsed : hunpk s.cfg (s.buf.take 8) = .ok f.header := by
    rw [hbuf]
    exact hf.framed.hunpk_wire rest
  rw [exec_dec, State.phaseOfDec_eq, hparsed, hf.finishDec_wire hbuf hguard, frameTotal]

end Sys2Proof.Machine
end

section
/-! Proofs about the exceptions (60_exceptions.md): taking an error (O57), the fields of an error (O58), and the outcomes of
each operation (O59). -/

namespace Sys2Proof.Machine

/-! ## Taking an error (R178) -/

/-- Only an operation that merely answers can answer an error: a change of the buffer ends in `Done` or in a frame. -/
theorem perform_of_res_error {i : Instr} {s : State} {e : ErrorName} (hr : (perform i s).res = .error e) :
    perform i s = s.raise e := by
  rcases perform_cases i s with ⟨o, -, -, ho⟩ | ⟨b, -, -, ho⟩ | ⟨n, -, -, ho⟩ | ⟨h, k, v, -, ho⟩ | ⟨-, ho⟩ <;>
    rw [ho] at hr ⊢
  · rw [State.answer_res] at hr
    rw [hr, State.raise]
  all_goals cases hr

/-- Settles O57: the state an error leaves is the one `raise` gives, which differs in `RES` only. -/
theorem errorChangesOnlyRes : Obligations.ErrorChangesOnlyRes := by
  intro i s t e hexec hr
  obtain rfl := perform_of_exec hexec
  have hraise : perform i s = s.raise e := perform_of_res_error hr
  refine ⟨hraise, fun a => ?_, State.out_of_res_error hr⟩
  rw [hraise, State.raise, State.readByte_answer]

/-! ## The outcomes of each operation (R177) -/

theorem perform_push_res_cases (b : Byte) (s : State) :
    (perform (.push b) s).res = .done ∨ (perform (.push b) s).res = .refused := by
  cases hf : s.full with
  | true => exact .inr (by rw [perform_push_of_full b hf, State.answer_res])
  | false => exact .inl (by rw [perform_push_of_not_full b hf, State.answer_res])

theorem perform_skip_res_cases (n : Nat) (s : State) :
    (perform (.skip n) s).res = .done ∨ (perform (.skip n) s).res = .refused := by
  rcases Nat.lt_or_ge s.level n with hlt | hle
  · exact .inr (by rw [perform_skip_of_lt hlt, State.answer_res])
  · exact .inl (by rw [perform_skip_of_le hle, State.answer_res])

theorem hunpkOutcome_cases (c : Params) (l : List Byte) :
    (∃ h, hunpkOutcome c l = .header h) ∨ ∃ e, hunpkOutcome c l = .error e := by
  rw [hunpkOutcome]
  cases hunpk c l with
  | error e => exact .inr ⟨e, rfl⟩
  | ok h => exact .inl ⟨h, rfl⟩

theorem hpkOutcome_cases (c : Params) (h : Header) :
    (∃ b, hpkOutcome c h = .bytes .hpk b) ∨ ∃ e, hpkOutcome c h = .error e := by
  rw [hpkOutcome]
  cases hpk c h with
  | error e => exact .inr ⟨e, rfl⟩
  | ok b => exact .inl ⟨b, rfl⟩

theorem dspOutcome_cases (t : TypeCode) : (∃ k, dspOutcome t = .route k) ∨ ∃ e, dspOutcome t = .error e := by
  rw [dspOutcome]
  cases dsp t with
  | error e => exact .inr ⟨e, rfl⟩
  | ok k => exact .inl ⟨k, rfl⟩

theorem encOutcome_cases (c : Params) (h : Header) (kp : Route) (v : Payload) :
    (∃ b, encOutcome c h kp v = .bytes .enc b) ∨ ∃ e, encOutcome c h kp v = .error e := by
  rw [encOutcome]
  cases encFrame c h kp v with
  | error e => exact .inr ⟨e, rfl⟩
  | ok b => exact .inl ⟨b, rfl⟩

/-- Whoever unpacked the header, `DEC` or a frame kind, the phases end in one of the outcomes of `DEC`. -/
theorem finishDec_decPhase_res_cases (c : Params) (buf : List Byte) (parsed : Except ErrorName Header) (s : State) :
    (finishDec (decPhase c buf parsed) s).res = .incomplete ∨
    (∃ h k v, (finishDec (decPhase c buf parsed) s).res = .frame h k v) ∨
    ∃ e, (finishDec (decPhase c buf parsed) s).res = .error e := by
  rcases finishDec_cases (decPhase c buf parsed) s with ⟨o, hreport, ho⟩ | ⟨h, k, sl, e, -, -, ho⟩ |
    ⟨h, k, sl, v, -, -, ho⟩ <;> rw [ho]
  · rw [State.answer_res]
    exact (decPhase_report_not_frame hreport).imp_right .inr
  · exact .inr (.inr ⟨portErrorName e, rfl⟩)
  · exact .inr (.inl ⟨h, k, v, rfl⟩)

/-- Settles O59: every instruction answers a next state, a host operation with the outcomes of its own function, a frame
kind with the ends of the phases of `DEC`. -/
theorem outcomeKindsByOperation : Obligations.OutcomeKindsByOperation := by
  intro i s
  refine ⟨perform i s, exec_eq_perform i s, ?_⟩
  cases i
  case rst => rfl
  case push b => exact perform_push_res_cases b s
  case skip n => exact perform_skip_res_cases n s
  case hunpk l => exact hunpkOutcome_cases s.cfg l
  case hpk h => exact hpkOutcome_cases s.cfg h
  case dsp t => exact dspOutcome_cases t
  case dspinv k => exact ⟨k.code, rfl⟩
  case enc h kp v => exact encOutcome_cases s.cfg h kp v
  all_goals exact finishDec_decPhase_res_cases s.cfg s.buf _ s

/-! ## The error codes (R60) -/

/-- The 17 errors in the order of R60, which is the order of their codes. -/
def ErrorName.all : List ErrorName :=
  [.tooShort, .invalidProtocolVersion, .failedProtocolValidation, .invalidPayloadType, .invalidNackCode,
   .invalidActivationType, .invalidActivationCode, .invalidPowerMode, .invalidNodeType, .invalidDiagnosticAckCode,
   .invalidDiagnosticNackCode, .invalidActionCode, .invalidSyncStatus, .messageTooLarge, .bufferTooSmall,
   .payloadTypeValidation, .payloadLengthValidation]

theorem ErrorName.mem_all (e : ErrorName) : e ∈ ErrorName.all := by cases e <;> decide

theorem ErrorName.code_ne_zero (e : ErrorName) : e.code ≠ 0 := by cases e <;> decide

/-- No two errors share a code: the table lists 17 distinct ones. -/
theorem ErrorName.code_injective : Function.Injective ErrorName.code := by
  have hdistinct : (ErrorName.all.map ErrorName.code).Nodup := by decide
  intro e f h
  exact List.inj_on_of_nodup_map hdistinct e.mem_all f.mem_all h

/-- Settles O58: an error has a value in the fields `KIND` and `ERR` alone, and `ERR` holds its code. -/
theorem errorCarriesOnlyItsName : Obligations.ErrorCarriesOnlyItsName := fun e =>
  ⟨rfl, rfl, rfl, rfl, rfl, rfl, rfl, e.code_ne_zero, fun _ h => ErrorName.code_injective h⟩

end Sys2Proof.Machine
end

section
/-! Proofs about reset (70_reset_and_hazards.md): what power-on reset leaves (O7), and `RST` (O8): no instruction reads the
`Done` in `RES`, which is all that tells the block after `RST` from the block after power-on reset. -/

namespace Sys2Proof.Machine

/-! ## No instruction reads `RES` -/

theorem emitFrame_answer (h : Header) (k : Route) (v : Payload) (s : State) (o : OpOutcome) :
    emitFrame h k v (s.answer o) = emitFrame h k v s := rfl

/-- Every end of a `DEC` overwrites `RES`, so the outcome that stood there before does not matter. -/
theorem finishDec_answer (p : DecPhase) (s : State) (o : OpOutcome) : finishDec p (s.answer o) = finishDec p s := by
  cases p with
  | report r => rw [finishDec_report, finishDec_report, State.answer_answer]
  | dispatch h k slice =>
    cases hc : pcodec k slice h with
    | error e => rw [finishDec_dispatch_of_error _ hc, finishDec_dispatch_of_error _ hc, State.raise, State.answer_answer,
        State.raise]
    | ok v => rw [finishDec_dispatch_of_ok _ hc, finishDec_dispatch_of_ok _ hc, emitFrame_answer]

theorem runFrame_answer (h : Header) (s : State) (o : OpOutcome) : runFrame h (s.answer o) = runFrame h s :=
  finishDec_answer _ s o

/-- The next state of an instruction does not depend on the outcome of the one before (R181). -/
theorem perform_answer (i : Instr) (s : State) (o : OpOutcome) : perform i (s.answer o) = perform i s := by
  rcases instr_cases i with ⟨p, hp⟩ | ⟨k, ver, inv, len, rfl⟩
  · cases i
    case dec => exact finishDec_answer s.phaseOfDec s o
    case rst | push | skip | hunpk | hpk | dsp | dspinv | enc => rfl
    all_goals cases hp
  · rw [perform_of_exec (exec_ofRoute k ver inv len _), perform_of_exec (exec_ofRoute k ver inv len s), runFrame_answer]

/-! ## Power-on reset (R200) and `RST` (R201) -/

/-- Settles O7: the reset state gives each of these fields its value. -/
theorem resetLeavesEmptyBlock : Obligations.ResetLeavesEmptyBlock := fun c =>
  ⟨State.resetWith_buf c, rfl, State.resetWith_res c, State.resetWith_consumed c, State.resetWith_frames c,
    State.resetWith_cfg c⟩

/-- After `RST` the block is the block after power-on reset, but for the `Done` in `RES`. -/
theorem perform_rst_eq_resetWith_answer (s : State) :
    perform .rst s = State.answer { State.resetWith s.cfg with ops := s.ops } .done := rfl

/-- Settles O8: the one difference that `RST` leaves is in `RES`, and no later instruction reads it. -/
theorem rstEmptiesTheBlock : Obligations.RstEmptiesTheBlock := fun s =>
  ⟨exec_rst s, fun i => by rw [perform_rst_eq_resetWith_answer, perform_answer]⟩

end Sys2Proof.Machine
end

section
/-! Proofs about the encoding (30_encoding.md): decoding is the inverse of encoding, operation by operation and row by row (O1,
O2), and encoding the inverse of decoding a header (O3). -/

namespace Sys2Proof

/-! ## The two formats of the encoder -/

@[simp] theorem encode_ofRoute (k : Route) (ver inv : Byte) (len : PayloadLen) :
    encode (Instr.ofRoute k ver inv len) = .frame (Header.toBytes ⟨ver, inv, k.code, len⟩) := by
  cases k <;> rfl

/-- The select code and the lanes of an operation give the operation back (R58). -/
theorem decodeOp_of_encode {i : Instr} {p : OpPort} (h : encode i = .cmd p) : decodeOp p = .ok i := by
  cases i
  case rst | push | dec | skip | hunpk | hpk | dsp | dspinv | enc => cases h; rfl
  all_goals cases h

/-! ## The frame decoder (R62) -/

/-- The row that a header's type selects is decoded, and the bytes after the header are left over. -/
theorem decodeFrame_of_ofBytes {l : List Byte} {h : Header} {k : Route} (hl : Header.ofBytes l = some h)
    (hk : h.type = k.code) : decodeFrame l = .ok (Instr.ofRoute k h.ver h.inv h.len, l.drop 8) := by
  simp [decodeFrame, hl, hk, Route.ofCode_code]

/-- A frame decodes only by the row that its header's type selects. -/
theorem decodeFrame_eq_ok {l rest : List Byte} {i : Instr} (hd : decodeFrame l = .ok (i, rest)) :
    ∃ h k, Header.ofBytes l = some h ∧ h.type = Route.code k ∧ i = Instr.ofRoute k h.ver h.inv h.len ∧
      rest = l.drop 8 := by
  cases hl : Header.ofBytes l with
  | none => simp [decodeFrame, hl] at hd
  | some h =>
    cases hk : Route.ofCode h.type with
    | none => simp [decodeFrame, hl, hk] at hd
    | some k =>
      have htype : h.type = k.code := Route.ofCode_eq_some_iff.1 hk
      rw [decodeFrame_of_ofBytes hl htype] at hd
      cases hd
      exact ⟨h, k, rfl, htype, rfl, rfl⟩

/-- The bytes of a row's header, whatever follows them, decode to the row's instruction. -/
theorem decodeFrame_toBytes_append (k : Route) (ver inv : Byte) (len : PayloadLen) (tail : List Byte) :
    decodeFrame (Header.toBytes ⟨ver, inv, k.code, len⟩ ++ tail) = .ok (Instr.ofRoute k ver inv len, tail) := by
  have hhead : Header.ofBytes (Header.toBytes ⟨ver, inv, k.code, len⟩ ++ tail) = some ⟨ver, inv, k.code, len⟩ := by
    rw [Header.ofBytes_append (Header.toBytes_length _).ge, Header.ofBytes_toBytes]
  rw [decodeFrame_of_ofBytes hhead rfl, List.drop_left' (Header.toBytes_length _)]

/-- Settles O2: an operation decodes by its select code, a frame kind by the type code of its row. -/
theorem encodedInstructionDecodesBack : Obligations.EncodedInstructionDecodesBack := by
  intro i tail
  rcases Machine.instr_cases i with ⟨p, hp⟩ | ⟨k, ver, inv, len, rfl⟩
  · rw [hp]
    exact decodeOp_of_encode hp
  · rw [encode_ofRoute]
    exact ⟨Header.toBytes_length _, decodeFrame_toBytes_append k ver inv len tail⟩

/-! ## Encoding what was decoded (R51) -/

/-- The header of a sequence packs to the first 8 bytes of the sequence. -/
theorem Header.toBytes_of_ofBytes {l : List Byte} {h : Header} (hl : Header.ofBytes l = some h) :
    h.toBytes = l.take 8 := by
  have hlen : 8 ≤ l.length := by
    rw [← Nat.not_lt, ← Header.ofBytes_eq_none_iff, hl]
    exact Option.some_ne_none h
  obtain ⟨g, hg, hbytes⟩ := Header.exists_ofBytes_toBytes hlen
  obtain rfl : h = g := Option.some.inj (hl.symm.trans hg)
  exact hbytes

/-- Settles O3: the row of the decoded instruction has the header's type as its code, so it encodes the header itself. -/
theorem decodedHeaderEncodesBack : Obligations.DecodedHeaderEncodesBack := by
  intro b rest i hd
  obtain ⟨h, k, hhead, htype, rfl, rfl⟩ := decodeFrame_eq_ok hd
  refine ⟨?_, (List.take_append_drop 8 b).symm⟩
  rw [encode_ofRoute, ← htype, Header.toBytes_of_ofBytes hhead]

/-- Settles O1: each word is decoded by its row of the table. -/
theorem handWrittenWordsDecode : Obligations.HandWrittenWordsDecode :=
  ⟨rfl, rfl, rfl, rfl, rfl, rfl, rfl, rfl, rfl⟩

end Sys2Proof
end

section
/-! Proofs about the step: which instruction it runs (O9, O10, O11), that it always has a next state (O12, O13), and what no
instruction reads (O14). -/

namespace Sys2Proof.Machine

/-! ## What every instruction leaves alone -/

@[simp] theorem emitFrame_cfg (h : Header) (k : Route) (v : Payload) (s : State) : (emitFrame h k v s).cfg = s.cfg := rfl
@[simp] theorem emitFrame_ops (h : Header) (k : Route) (v : Payload) (s : State) : (emitFrame h k v s).ops = s.ops := rfl

/-- No instruction changes the configuration (R20, R202). -/
@[simp] theorem perform_cfg (i : Instr) (s : State) : (perform i s).cfg = s.cfg := by
  rcases perform_cases i s with ⟨o, -, -, e⟩ | ⟨b, -, -, e⟩ | ⟨n, -, -, e⟩ | ⟨h, k, v, -, e⟩ | ⟨-, e⟩ <;> simp [e]

/-- No instruction touches the operations that the host has still to issue. -/
@[simp] theorem perform_ops (i : Instr) (s : State) : (perform i s).ops = s.ops := by
  rcases perform_cases i s with ⟨o, -, -, e⟩ | ⟨b, -, -, e⟩ | ⟨n, -, -, e⟩ | ⟨h, k, v, -, e⟩ | ⟨-, e⟩ <;> simp [e]

/-- Every instruction writes `RES` (R16). -/
theorem perform_res_ne_none (i : Instr) (s : State) : (perform i s).res ≠ .none := by
  rcases perform_cases i s with ⟨o, ho, -, e⟩ | ⟨b, -, -, e⟩ | ⟨n, -, -, e⟩ | ⟨h, k, v, -, e⟩ | ⟨-, e⟩ <;> simp [e]
  exact ho

/-- Settles O13: each of the ways an instruction can change a state answers an outcome and keeps both fields. -/
theorem everyOperationWritesItsOutcome : Obligations.EveryOperationWritesItsOutcome := fun i s =>
  ⟨perform i s, exec_eq_perform i s, perform_res_ne_none i s, perform_cfg i s, perform_ops i s⟩

/-! ## The frame kind at the head of the buffer is `DEC` (R42) -/

/-- With a header at the head of the buffer, a `DEC` is that header's frame. -/
theorem perform_dec_of_ofBytes {s : State} {h : Header} (hhead : Header.ofBytes s.buf = some h) :
    perform .dec s = runFrame h s := by
  have hparsed : hunpk s.cfg (s.buf.take 8) = headerCheck s.cfg h :=
    hunpk_of_ofBytes ((Header.ofBytes_take s.buf 8 le_rfl).trans hhead)
  rw [perform_dec, State.phaseOfDec_eq, hparsed, runFrame]

/-- Settles O10: the frame kind's operands and its type code make up the header that `DEC` unpacks. -/
theorem frameKindDoesWhatDecDoes : Obligations.FrameKindDoesWhatDecDoes := by
  intro s i tail hd
  obtain ⟨h, k, hhead, htype, rfl, -⟩ := decodeFrame_eq_ok hd
  rw [exec_ofRoute, exec_eq_perform, perform_dec_of_ofBytes hhead, ← htype]

/-! ## What is fetched, and the step (R42, R58) -/

theorem fetchInstr_of_ne_dec {p : OpPort} {i : Instr} (s : State) (hp : decodeOp p = .ok i) (hi : i ≠ .dec) :
    fetchInstr p s = .ok i := by
  cases i
  case dec => exact absurd rfl hi
  all_goals simp [fetchInstr, hp]

theorem fetchInstr_dec_of_row {p : OpPort} {s : State} {j : Instr} {tail : List Byte} (hp : decodeOp p = .ok .dec)
    (hd : decodeFrame s.buf = .ok (j, tail)) : fetchInstr p s = .ok j := by
  simp [fetchInstr, hp, hd]

theorem fetchInstr_dec_of_no_row {p : OpPort} {s : State} {e : DecodeError} (hp : decodeOp p = .ok .dec)
    (hd : decodeFrame s.buf = .error e) : fetchInstr p s = .ok .dec := by
  simp [fetchInstr, hp, hd]

theorem fetchInstr_of_error {p : OpPort} {e : DecodeError} (s : State) (hp : decodeOp p = .error e) :
    fetchInstr p s = .error e := by
  simp [fetchInstr, hp]

/-- Settles O9: a step runs what is fetched, and each clause is one case of the fetch. -/
theorem stepRunsTheDecodedInstruction : Obligations.StepRunsTheDecodedInstruction := by
  intro s p rest i hops hp
  refine ⟨fun hi => step_of_fetch hops (fetchInstr_of_ne_dec s hp hi), ?row, ?noRow⟩
  case row =>
    rintro j tail rfl hd
    exact step_of_fetch hops (fetchInstr_dec_of_row hp hd)
  case noRow =>
    rintro e rfl hd
    exact step_of_fetch hops (fetchInstr_dec_of_no_row hp hd)

/-- A step is `exec` of the operation the select code names: for a `DEC` that fetches a frame kind by O10. -/
theorem step_of_decodeOp {s : State} {p : OpPort} {rest : List OpPort} {i : Instr} (hops : s.ops = p :: rest)
    (hp : decodeOp p = .ok i) : step s = exec i (s.takeOp rest) := by
  obtain ⟨other, row, noRow⟩ := stepRunsTheDecodedInstruction s p rest i hops hp
  by_cases hi : i = .dec
  · cases hd : decodeFrame s.buf with
    | error e => exact hi ▸ noRow e hi hd
    | ok fetched =>
      obtain ⟨j, tail⟩ := fetched
      rw [hi]
      exact (row j tail hi hd).trans (frameKindDoesWhatDecDoes (s.takeOp rest) j tail hd)
  · exact other hi

/-- Settles O11: whatever the operation fetches, it is performed on the state whose queue it has left. -/
theorem stepPerformsTheHostOperation : Obligations.StepPerformsTheHostOperation := fun _ _ _ _ => step_of_decodeOp

/-- What a step can do, said once: nothing when no operation is issued; else the next operation leaves the queue and is
performed, or is answered `Refused` when its select code names none. -/
theorem step_cases (s : State) :
    (s.ops = [] ∧ step s = .next s) ∨
    (∃ p rest, s.ops = p :: rest ∧ step s = .next ((s.takeOp rest).answer .refused)) ∨
    (∃ p rest i, s.ops = p :: rest ∧ step s = .next (perform i (s.takeOp rest))) := by
  cases hops : s.ops with
  | nil => exact .inl ⟨rfl, step_idle hops⟩
  | cons p rest =>
    cases hp : decodeOp p with
    | error e => exact .inr (.inl ⟨p, rest, rfl, step_of_unassigned hops (fetchInstr_of_error s hp)⟩)
    | ok i => exact .inr (.inr ⟨p, rest, i, rfl, (step_of_decodeOp hops hp).trans (exec_eq_perform i _)⟩)

/-- Settles O12: each kind of step has a next state, with the same configuration and the rest of the queue. -/
theorem everyStepHasANextState : Obligations.EveryStepHasANextState := by
  intro s
  rcases step_cases s with ⟨hops, e⟩ | ⟨p, rest, hops, e⟩ | ⟨p, rest, i, hops, e⟩ <;> refine ⟨_, e, ?_⟩ <;> simp [hops]

/-! ## What no instruction reads (R16, R17) -/

/-- The phase of a `DEC` decides its outcome. -/
theorem finishDec_res_congr (p : DecPhase) (s t : State) : (finishDec p s).res = (finishDec p t).res := by
  cases p with
  | report o => rfl
  | dispatch h k slice =>
    cases hc : pcodec k slice h with
    | error e => rw [finishDec_dispatch_of_error s hc, finishDec_dispatch_of_error t hc, State.raise_res, State.raise_res]
    | ok v => rw [finishDec_dispatch_of_ok s hc, finishDec_dispatch_of_ok t hc, emitFrame_res, emitFrame_res]

/-- The phase of a `DEC` and the buffer decide the buffer it leaves. -/
theorem finishDec_buf_congr (p : DecPhase) {s t : State} (hbuf : s.buf = t.buf) :
    (finishDec p s).buf = (finishDec p t).buf := by
  cases p with
  | report o => exact hbuf
  | dispatch h k slice =>
    cases hc : pcodec k slice h with
    | error e => rwa [finishDec_dispatch_of_error s hc, finishDec_dispatch_of_error t hc]
    | ok v =>
      rw [finishDec_dispatch_of_ok s hc, finishDec_dispatch_of_ok t hc]
      simp only [emitFrame, State.answer_buf, State.countFrame_buf, State.removeHead_buf, State.level, hbuf]

/-- The outcome and the buffer that an instruction leaves depend on the configuration and the buffer alone. -/
theorem perform_congr (i : Instr) {s t : State} (hcfg : s.cfg = t.cfg) (hbuf : s.buf = t.buf) :
    (perform i s).res = (perform i t).res ∧ (perform i s).buf = (perform i t).buf := by
  rcases instr_cases i with ⟨p, hp⟩ | ⟨k, ver, inv, len, rfl⟩
  · cases i
    case rst => exact ⟨rfl, rfl⟩
    case push b =>
      have hfull : s.full = t.full := by rw [State.full, State.full, State.level, State.level, hcfg, hbuf]
      cases hf : t.full with
      | true =>
        rw [perform_push_of_full b (hfull.trans hf), perform_push_of_full b hf]
        exact ⟨rfl, hbuf⟩
      | false =>
        rw [perform_push_of_not_full b (hfull.trans hf), perform_push_of_not_full b hf]
        exact ⟨rfl, congrArg (· ++ [b]) hbuf⟩
    case dec =>
      rw [perform_dec, perform_dec, State.phaseOfDec, State.phaseOfDec, hcfg, hbuf]
      exact ⟨finishDec_res_congr _ s t, finishDec_buf_congr _ hbuf⟩
    case skip n =>
      have hlevel : s.level = t.level := congrArg List.length hbuf
      rcases Nat.lt_or_ge t.level n with hlt | hle
      · rw [perform_skip_of_lt (hlevel.trans_lt hlt), perform_skip_of_lt hlt]
        exact ⟨rfl, hbuf⟩
      · rw [perform_skip_of_le (hle.trans_eq hlevel.symm), perform_skip_of_le hle]
        exact ⟨rfl, congrArg (List.drop n) hbuf⟩
    case hunpk l => exact ⟨congrArg (hunpkOutcome · l) hcfg, hbuf⟩
    case hpk h => exact ⟨congrArg (hpkOutcome · h) hcfg, hbuf⟩
    case dsp u => exact ⟨rfl, hbuf⟩
    case dspinv k => exact ⟨rfl, hbuf⟩
    case enc h kp v => exact ⟨congrArg (encOutcome · h kp v) hcfg, hbuf⟩
    all_goals cases hp
  · rw [perform_of_exec (exec_ofRoute k ver inv len s), perform_of_exec (exec_ofRoute k ver inv len t), runFrame,
      runFrame, hcfg, hbuf]
    exact ⟨finishDec_res_congr _ s t, finishDec_buf_congr _ hbuf⟩

/-- Settles O14: the states differ in neither field on which the outcome and the buffer depend; `RES` alone does not even
reach the counters. -/
theorem noOperationReadsResOrCounters : Obligations.NoOperationReadsResOrCounters := by
  intro i s r c f
  obtain ⟨hres, hbuf⟩ := perform_congr i (s := { s with res := r, consumed := c, frames := f }) (t := s) rfl rfl
  exact ⟨hres, hbuf, perform_answer i s r⟩

end Sys2Proof.Machine
end

section
/-! Proofs about the invariants: that of a block, at reset (O15) and under every step (O16), and the place of the buffer in
the stream of pushed bytes (O19). -/

namespace Sys2Proof.Machine

/-! ## The invariant `State.Inv`, update by update -/

variable {s : State}

theorem State.Inv.answer (hs : s.Inv) (o : OpOutcome) : (s.answer o).Inv :=
  ⟨hs.configured, hs.withinCap, hs.frameBytes⟩

theorem State.Inv.takeOp (hs : s.Inv) (rest : List OpPort) : (s.takeOp rest).Inv :=
  ⟨hs.configured, hs.withinCap, hs.frameBytes⟩

/-- A buffer that is not full has room for one more byte (R115). -/
theorem State.Inv.appendByte (hs : s.Inv) (hroom : s.full = false) (b : Byte) : (s.appendByte b).Inv := by
  refine ⟨hs.configured, fun n hn => ?_, hs.frameBytes⟩
  have hle : s.level ≤ n := hs.withinCap n hn
  have hne : s.level ≠ n := by
    rintro rfl
    rw [State.full_iff.2 hn] at hroom
    cases hroom
  have hgrown : (s.appendByte b).level = s.level + 1 := List.length_append
  omega

theorem State.Inv.removeHead (hs : s.Inv) (n : Nat) : (s.removeHead n).Inv := by
  refine ⟨hs.configured, fun m hm => le_trans ?_ (hs.withinCap m hm), hs.frameBytes.trans (Nat.le_add_right _ _)⟩
  exact (List.drop_sublist n s.buf).length_le

theorem State.Inv.discardAll (hs : s.Inv) : s.discardAll.Inv :=
  ⟨hs.configured, fun n _ => Nat.zero_le n, le_rfl⟩

/-- The frame counted brings the 8 bytes of its header with it (R111). -/
theorem State.Inv.emitFrame (hs : s.Inv) {h : Header} (hc : frameTotal h ≤ s.level) (k : Route) (v : Payload) :
    (emitFrame h k v s).Inv := by
  have hremoved := hs.removeHead (frameTotal h)
  rw [emitFrame_of_complete hc]
  refine ⟨hs.configured, hremoved.withinCap, ?_⟩
  have hbytes := hs.frameBytes
  have hheader := eight_le_frameTotal h
  dsimp only
  omega

/-! ## The invariant along a run -/

theorem State.Inv.perform (hs : s.Inv) (i : Instr) : (perform i s).Inv := by
  rcases perform_cases i s with ⟨o, -, -, e⟩ | ⟨b, -, hroom, e⟩ | ⟨n, -, -, e⟩ | ⟨h, k, v, hemits, e⟩ | ⟨-, e⟩ <;> rw [e]
  · exact hs.answer o
  · exact (hs.appendByte hroom b).answer .done
  · exact (hs.removeHead n).answer .done
  · exact hs.emitFrame hemits.complete k v
  · exact hs.discardAll.answer .done

/-- Settles O16: whatever a step does is built from updates that keep the invariant. -/
theorem stepKeepsTheInvariant : Obligations.StepKeepsTheInvariant := by
  intro s t hs hstep
  rcases step_cases s with ⟨-, e⟩ | ⟨p, rest, -, e⟩ | ⟨p, rest, i, -, e⟩ <;> rw [e] at hstep <;> cases hstep
  · exact hs
  · exact (hs.takeOp rest).answer .refused
  · exact (hs.takeOp rest).perform i

theorem State.Inv.resetWith {c : Params} (hc : c.Valid) : (State.resetWith c).Inv :=
  ⟨hc, fun n _ => Nat.zero_le n, le_rfl⟩

/-- Settles O15: an empty buffer is within any capacity, and the default configuration meets R5. -/
theorem resetMeetsTheInvariant : Obligations.ResetMeetsTheInvariant :=
  ⟨fun _ hc => .resetWith hc, .resetWith (by decide)⟩

/-! ## The buffer in the stream (R17) -/

/-- The buffer is the stream from the byte after the consumed ones on (R17). -/
structure State.FollowsStream (s : State) (stream : List Byte) : Prop where
  consumed_le : s.consumed ≤ stream.length
  buf_eq      : s.buf = stream.drop s.consumed

variable {stream : List Byte}

theorem State.FollowsStream.answer (hs : s.FollowsStream stream) (o : OpOutcome) : (s.answer o).FollowsStream stream :=
  ⟨hs.consumed_le, hs.buf_eq⟩

theorem State.FollowsStream.appendByte (hs : s.FollowsStream stream) (b : Byte) :
    (s.appendByte b).FollowsStream (stream ++ [b]) := by
  refine ⟨hs.consumed_le.trans (by simp), ?_⟩
  rw [State.appendByte_buf, State.appendByte_consumed, List.drop_append_of_le_length hs.consumed_le, ← hs.buf_eq]

theorem State.FollowsStream.removeHead (hs : s.FollowsStream stream) {n : Nat} (hn : n ≤ s.level) :
    (s.removeHead n).FollowsStream stream := by
  refine ⟨?_, ?_⟩
  · have hle := hs.consumed_le
    rw [State.level, hs.buf_eq, List.length_drop] at hn
    rw [State.removeHead_consumed]
    omega
  · rw [State.removeHead_buf, State.removeHead_consumed, ← List.drop_drop, ← hs.buf_eq]

theorem State.FollowsStream.emitFrame (hs : s.FollowsStream stream) {h : Header} (hc : frameTotal h ≤ s.level)
    (k : Route) (v : Payload) : (emitFrame h k v s).FollowsStream stream := by
  obtain ⟨hle, hbuf⟩ := hs.removeHead hc
  rw [emitFrame_of_complete hc]
  exact ⟨hle, hbuf⟩

/-! ## The bytes a trace adds to the stream -/

theorem accepted_push_of_full {b : Byte} (hf : s.full = true) (is : List Instr) :
    accepted (.push b :: is) s = accepted is (perform (.push b) s) := by
  simp [accepted, perform_push_of_full b hf]

theorem accepted_push_of_not_full {b : Byte} (hf : s.full = false) (is : List Instr) :
    accepted (.push b :: is) s = b :: accepted is (perform (.push b) s) := by
  simp [accepted, perform_push_of_not_full b hf]

theorem accepted_of_not_push {i : Instr} (hi : ∀ b, i ≠ .push b) (is : List Instr) :
    accepted (i :: is) s = accepted is (perform i s) := by
  cases i
  case push b => exact absurd rfl (hi b)
  all_goals rfl

/-- An instruction that pushes no byte and does not reset leaves the buffer where it is in the stream. -/
theorem State.FollowsStream.perform (hs : s.FollowsStream stream) {i : Instr} (hpush : ∀ b, i ≠ .push b)
    (hrst : i ≠ .rst) : (perform i s).FollowsStream stream := by
  rcases perform_cases i s with ⟨o, -, -, e⟩ | ⟨b, hb, -, -⟩ | ⟨n, -, hn, e⟩ | ⟨h, k, v, hemits, e⟩ | ⟨hi, -⟩
  · rw [e]
    exact hs.answer o
  · exact absurd hb (hpush b)
  · rw [e]
    exact (hs.removeHead hn).answer .done
  · rw [e]
    exact hs.emitFrame hemits.complete k v
  · exact absurd hi hrst

/-- Along a trace without `RST` the buffer follows the stream, extended by the accepted bytes. -/
theorem State.FollowsStream.performAll {is : List Instr} (hrst : .rst ∉ is) (hs : s.FollowsStream stream) :
    (performAll is s).FollowsStream (stream ++ accepted is s) := by
  induction is generalizing s stream with
  | nil => simpa [accepted, Machine.performAll] using hs
  | cons i is ih =>
    obtain ⟨hi, his⟩ := not_or.1 (mt List.mem_cons.2 hrst)
    rw [Machine.performAll]
    by_cases hpush : ∃ b, i = .push b
    · obtain ⟨b, rfl⟩ := hpush
      cases hf : s.full with
      | true =>
        rw [accepted_push_of_full hf, perform_push_of_full b hf]
        exact ih his (hs.answer .refused)
      | false =>
        rw [accepted_push_of_not_full hf, perform_push_of_not_full b hf, List.append_cons]
        exact ih his ((hs.appendByte b).answer .done)
    · rw [not_exists] at hpush
      rw [accepted_of_not_push hpush]
      exact ih his (hs.perform hpush (Ne.symm hi))

/-- Settles O19: the statement is that the buffer follows the stream, before and after the trace. -/
theorem bufferIsTheStreamFromConsumed : Obligations.BufferIsTheStreamFromConsumed := by
  intro is s stream hrst hle hbuf
  obtain ⟨hle', hbuf'⟩ := State.FollowsStream.performAll hrst ⟨hle, hbuf⟩
  exact ⟨hle', hbuf'⟩

end Sys2Proof.Machine
end

section
/-! Proofs about the ends of a `DEC` and of a frame kind: one lemma per end, then the frame kinds (O33, O34), what an emitted
frame removes (O36), repetition (O37), what the outcome depends on (O38), and a bad header (O39). -/

namespace Sys2Proof.Machine

/-! ## The phases of a `DEC`, end by end (R101 to R110) -/

section Phases

variable {c : Params} {buf : List Byte} {h : Header}

theorem decPhase_of_too_long (parsed : Except ErrorName Header) (hlong : c.maxFrameSize < buf.length) :
    decPhase c buf parsed = .report (.error .messageTooLarge) := if_pos hlong

theorem decPhase_of_short (parsed : Except ErrorName Header) (hguard : buf.length ≤ c.maxFrameSize)
    (hshort : buf.length < 8) : decPhase c buf parsed = .report (needMoreData c buf.length) :=
  (if_neg hguard.not_gt).trans (if_pos hshort)

theorem decPhase_of_error (e : ErrorName) (hguard : buf.length ≤ c.maxFrameSize) (hlen : 8 ≤ buf.length) :
    decPhase c buf (.error e) = .report (.error e) := by
  rw [decPhase, if_neg hguard.not_gt, if_neg hlen.not_gt]

theorem decPhase_of_declared_too_large (hguard : buf.length ≤ c.maxFrameSize) (hlen : 8 ≤ buf.length)
    (hbig : c.maxFrameSize < frameTotal h) : decPhase c buf (.ok h) = .report (.error .messageTooLarge) := by
  rw [decPhase, if_neg hguard.not_gt, if_neg hlen.not_gt]
  exact if_pos hbig

theorem decPhase_of_incomplete (hguard : buf.length ≤ c.maxFrameSize) (hlen : 8 ≤ buf.length)
    (hfits : frameTotal h ≤ c.maxFrameSize) (hpart : buf.length < frameTotal h) :
    decPhase c buf (.ok h) = .report (needMoreData c buf.length) := by
  rw [decPhase, if_neg hguard.not_gt, if_neg hlen.not_gt]
  exact (if_neg hfits.not_gt).trans (if_pos hpart)

theorem decPhase_of_complete {k : Route} (hguard : buf.length ≤ c.maxFrameSize) (hfits : frameTotal h ≤ c.maxFrameSize)
    (hcomplete : frameTotal h ≤ buf.length) (hk : h.type = k.code) :
    decPhase c buf (.ok h) = .dispatch h k (sliceOf buf 8 (frameTotal h)) := by
  have hlen : 8 ≤ buf.length := (eight_le_frameTotal h).trans hcomplete
  have hroute : dsp h.type = .ok k := dsp_ok_iff.2 hk
  rw [decPhase, if_neg hguard.not_gt, if_neg hlen.not_gt, if_neg hfits.not_gt, if_neg hcomplete.not_gt, hroute]

theorem needMoreData_of_full {n : Nat} (hn : c.cap = some n) : needMoreData c n = .error .bufferTooSmall :=
  if_pos (atCapacity_iff.2 hn)

theorem needMoreData_of_room {n : Nat} (hn : c.cap ≠ some n) : needMoreData c n = .incomplete :=
  if_neg (mt atCapacity_iff.1 hn)

theorem headerCheck_of_ver_not_mem (hver : h.ver ∉ c.versionCodes) :
    headerCheck c h = .error .invalidProtocolVersion := by
  rw [headerCheck_eq_ite, if_pos hver]

theorem headerCheck_of_inv_ne (hver : h.ver ∈ c.versionCodes) (hinv : h.inv ≠ ~~~h.ver) :
    headerCheck c h = .error .failedProtocolValidation := by
  rw [headerCheck_eq_ite, if_neg (not_not_intro hver), if_pos hinv]

end Phases

/-! ## The frame kinds (R102, R174) -/

theorem runFrame_of_report {h : Header} {s : State} {o : OpOutcome}
    (hp : decPhase s.cfg s.buf (headerCheck s.cfg h) = .report o) : runFrame h s = s.answer o := by
  rw [runFrame, hp, finishDec_report]

/-- Settles O33: the operands and the type code of the frame's route are the frame's header, which passes its checks. -/
theorem everyFrameKindEmits : Obligations.EveryFrameKindEmits := by
  rintro s f rest _ hf hbuf hguard rfl
  have hheader : (⟨f.header.ver, f.header.inv, f.route.code, f.header.len⟩ : Header) = f.header := by
    rw [← hf.framed.typed]
  rw [exec_ofRoute, hheader, runFrame, headerCheck_of_valid hf.framed.valid, hf.finishDec_wire hbuf hguard, frameTotal]

/-- Settles O34: each clause is one end of the phases, the checks of the header standing between the guards. -/
theorem frameKindOtherEnds : Obligations.FrameKindOtherEnds := by
  intro k ver inv len s i h total n ends
  have report (o : OpOutcome) (hp : decPhase s.cfg s.buf (headerCheck s.cfg h) = .report o) : ends o :=
    (exec_ofRoute k ver inv len s).trans (congrArg _ (runFrame_of_report hp))
  refine ⟨fun hlong => report _ (decPhase_of_too_long _ hlong), ?short, ?version, ?check, ?valid⟩
  case short =>
    intro hguard hshort
    have needMore := report _ (decPhase_of_short _ hguard hshort)
    exact ⟨fun hfull => needMoreData_of_full hfull ▸ needMore, fun hroom => needMoreData_of_room hroom ▸ needMore⟩
  case version =>
    intro hguard hlen hver
    have hheader : headerCheck s.cfg h = .error .invalidProtocolVersion := headerCheck_of_ver_not_mem hver
    exact report _ (hheader ▸ decPhase_of_error _ hguard hlen)
  case check =>
    intro hguard hlen hver hinv
    have hheader : headerCheck s.cfg h = .error .failedProtocolValidation := headerCheck_of_inv_ne hver hinv
    exact report _ (hheader ▸ decPhase_of_error _ hguard hlen)
  case valid =>
    intro hguard hlen hver hinv
    have hheader : headerCheck s.cfg h = .ok h :=
      headerCheck_of_valid (hdrValid_iff.2 ⟨hver, hinv, mem_typeCodes_iff.2 ⟨k, rfl⟩⟩)
    refine ⟨?tooLarge, ?full, ?room, ?codec⟩
    case tooLarge => exact fun hbig => report _ (hheader ▸ decPhase_of_declared_too_large hguard hlen hbig)
    case full =>
      intro hfits hpart hfull
      exact report _ (needMoreData_of_full hfull ▸ hheader ▸ decPhase_of_incomplete hguard hlen hfits hpart)
    case room =>
      intro hfits hpart hroom
      exact report _ (needMoreData_of_room hroom ▸ hheader ▸ decPhase_of_incomplete hguard hlen hfits hpart)
    case codec =>
      intro e hfits hcomplete hcodec
      have hphase : decPhase s.cfg s.buf (.ok h) = .dispatch h k (sliceOf s.buf 8 (frameTotal h)) :=
        decPhase_of_complete hguard hfits hcomplete rfl
      have hrun : runFrame h s = s.raise (portErrorName e) := by
        rw [runFrame, hheader, hphase, sliceOf_frameTotal, finishDec_dispatch_of_error s hcodec]
      exact (exec_ofRoute k ver inv len s).trans (congrArg _ hrun)

/-! ## What a `DEC` does to the state (R111, R112) -/

theorem perform_dec_of_report {s : State} {o : OpOutcome} (hp : s.phaseOfDec = .report o) :
    perform .dec s = s.answer o := by
  rw [perform_dec, hp, finishDec_report]

/-- A `DEC` only answers an outcome that is no frame, or it emits. -/
theorem perform_dec_cases (s : State) :
    (∃ o, o.isFrame = false ∧ perform .dec s = s.answer o) ∨
    (∃ h k v, EmitsFrame s h k v ∧ perform .dec s = emitFrame h k v s) := by
  rcases finishDec_valid_cases (s := s) (fun h hh => (hunpk_ok hh).2) with ⟨o, -, ho, e⟩ | hemits
  · exact .inl ⟨o, ho, e⟩
  · exact .inr hemits

/-- A `DEC` that answers a frame has presented its slice, which the route's codec took, and has emitted the frame. -/
theorem perform_dec_of_frame {s : State} {h : Header} {k : Route} {v : Payload}
    (hr : (perform .dec s).res = .frame h k v) :
    ∃ slice, s.decPort = some (k, slice, h) ∧ pcodec k slice h = .ok v ∧ perform .dec s = emitFrame h k v s := by
  cases hport : s.decPort with
  | none =>
    have hno := perform_dec_not_frame_of_decPort_none hport
    rw [hr] at hno
    cases hno
  | some presented =>
    obtain ⟨j, slice, g⟩ := presented
    cases hc : pcodec j slice g with
    | error e =>
      rw [perform_dec_of_codec_error hport hc] at hr
      cases hr
    | ok w =>
      have hemit := perform_dec_of_codec_ok hport hc
      rw [hemit] at hr
      cases hr
      exact ⟨slice, rfl, hc, hemit⟩

/-- Settles O36: the emitted frame is the head of the buffer, cut into the packed header, the slice and what stays. -/
theorem emittedFrameIsWhatIsRemoved : Obligations.EmittedFrameIsWhatIsRemoved := by
  intro s t h k p hexec hr
  obtain rfl := perform_of_exec hexec
  obtain ⟨slice, hport, hc, hemit⟩ := perform_dec_of_frame hr
  obtain ⟨hparsed, hroute, hslice, hlength⟩ := State.decPort_some hport
  obtain ⟨-, -, -, hcomplete, -, -⟩ := decPhase_dispatch (State.decPort_eq_some_iff.1 hport)
  obtain ⟨hhead, hvalid⟩ := hunpk_ok hparsed
  have hbytes : h.toBytes = s.buf.take 8 := by
    rw [Header.toBytes_of_ofBytes hhead, List.take_take, Nat.min_self]
  rw [hemit, emitFrame_of_complete hcomplete, frameTotal]
  refine ⟨slice, ?_, hlength, hvalid, dsp_ok_iff.1 hroute, hc, rfl, rfl⟩
  rw [hbytes, hslice, List.append_assoc, ← List.drop_drop, List.take_append_drop, List.take_append_drop]

theorem emitFrame_level {s : State} {h : Header} (hc : frameTotal h ≤ s.level) (k : Route) (v : Payload) :
    (emitFrame h k v s).level = s.level - frameTotal h := by
  rw [emitFrame_of_complete hc, State.level, List.length_drop, State.level]

/-- A frame takes at least its header from the buffer. -/
theorem perform_dec_level_of_frame {s : State} (hr : (perform .dec s).res.isFrame = true) :
    (perform .dec s).level + 8 ≤ s.level := by
  rcases perform_dec_cases s with ⟨o, ho, e⟩ | ⟨h, k, v, hemits, e⟩
  · rw [e, State.answer_res, ho] at hr
    cases hr
  · have hheader := eight_le_frameTotal h
    have hcomplete := hemits.complete
    rw [e, emitFrame_level hcomplete]
    omega

/-- Settles O37: a `DEC` that emits nothing leaves a state that differs in `RES`, which no `DEC` reads. -/
theorem decThatEmitsNothingIsIdempotent : Obligations.DecThatEmitsNothingIsIdempotent := by
  intro s t hexec
  obtain rfl := perform_of_exec hexec
  refine ⟨fun hr => ?_, perform_dec_level_of_frame⟩
  rcases perform_dec_cases s with ⟨o, -, e⟩ | ⟨h, k, v, -, e⟩
  · refine ⟨?_, ?_⟩
    · rw [e]
      rfl
    · rw [exec_eq_perform, e, perform_answer, e]
  · rw [e] at hr
    cases hr

/-! ## What the outcome of a `DEC` depends on (R113) -/

/-- The phases look at the level and at the bytes of the first frame only. -/
theorem decPhase_congr (c : Params) {buf buf' : List Byte} {parsed : Except ErrorName Header}
    (hlen : buf.length = buf'.length)
    (hframe : ∀ h, parsed = .ok h → buf.take (frameTotal h) = buf'.take (frameTotal h)) :
    decPhase c buf parsed = decPhase c buf' parsed := by
  cases parsed with
  | error e => rw [decPhase, decPhase, hlen]
  | ok h =>
    have hslice : sliceOf buf 8 (frameTotal h) = sliceOf buf' 8 (frameTotal h) := by
      rw [sliceOf, sliceOf, ← List.drop_take, ← List.drop_take, hframe h rfl]
    rw [decPhase, decPhase, hlen, hslice]

/-- Settles O38: the two states are in the same phase, and the phase decides the outcome. -/
theorem decDependsOnTheFirstFrameOnly : Obligations.DecDependsOnTheFirstFrameOnly := by
  intro s t hcfg hlen hhead hframe
  have hphase : s.phaseOfDec = t.phaseOfDec := by
    rw [State.phaseOfDec_eq, State.phaseOfDec_eq, ← hcfg, ← hhead]
    exact decPhase_congr s.cfg hlen hframe
  rw [perform_dec, perform_dec, hphase]
  exact finishDec_res_congr _ s t

/-! ## A header that fails its checks (R106, R182) -/

theorem perform_dec_of_bad_header {s : State} {e : ErrorName} (hguard : s.level ≤ s.cfg.maxFrameSize)
    (hlen : 8 ≤ s.level) (hbad : hunpk s.cfg (s.buf.take 8) = .error e) : perform .dec s = s.raise e :=
  perform_dec_of_report (by rw [State.phaseOfDec_eq, hbad, decPhase_of_error e hguard hlen])

/-- Settles O39: a byte that joins at the tail leaves the first 8 bytes as they are, and the guard still passes. -/
theorem pushDoesNotClearABadHeader : Obligations.PushDoesNotClearABadHeader := by
  intro s b e hlen hbad hguard
  have hdec : perform .dec s = s.raise e := perform_dec_of_bad_header hguard.le hlen hbad
  refine ⟨by rw [hdec, State.raise_res], ?_⟩
  cases hf : s.full with
  | true => rw [perform_push_of_full b hf, perform_answer, hdec, State.raise_res]
  | false =>
    have hgrown : (s.appendByte b).level = s.level + 1 := List.length_append
    have hhead : (s.appendByte b).buf.take 8 = s.buf.take 8 := List.take_append_of_le_length hlen
    have hdec' : perform .dec (s.appendByte b) = (s.appendByte b).raise e :=
      perform_dec_of_bad_header (hgrown ▸ hguard) (hgrown ▸ hlen.trans (Nat.le_succ _)) (hhead ▸ hbad)
    rw [perform_push_of_not_full b hf, perform_answer, hdec', State.raise_res]

end Sys2Proof.Machine
end

section
/-! Proofs about the errors a `DEC` can end in: at small capacities (O40), in the unbounded variant (O41); that `DRAIN` ends
(O43); the states of R204 (O44); and when an operation is refused (O60). -/

namespace Sys2Proof.Machine

/-! ## Structural errors (R172): what the codecs and the checks of a header report -/

theorem headerCheck_error_structural {c : Params} {h : Header} {e : ErrorName} (he : headerCheck c h = .error e) :
    e.isResourceError = false := by
  rcases headerCheck_cases c h with ⟨-, hc⟩ | ⟨-, -, hc⟩ | ⟨-, -, -, hc⟩ | ⟨-, hc⟩ <;> rw [hc] at he <;> cases he <;> rfl

theorem hunpk_error_structural {c : Params} {l : List Byte} {e : ErrorName} (he : hunpk c l = .error e) :
    e.isResourceError = false := by
  cases hl : Header.ofBytes l with
  | none =>
    rw [hunpk_of_short ((Header.ofBytes_eq_none_iff l).1 hl)] at he
    cases he
    rfl
  | some h =>
    rw [hunpk_of_ofBytes hl] at he
    exact headerCheck_error_structural he

theorem dsp_error_structural {t : TypeCode} {e : ErrorName} (he : dsp t = .error e) : e.isResourceError = false := by
  by_cases ht : t ∈ typeCodes
  · obtain ⟨k, rfl⟩ := mem_typeCodes_iff.1 ht
    rw [dsp_code] at he
    cases he
  · rw [dsp_of_not_mem ht] at he
    cases he
    rfl

theorem portErrorName_structural (e : PortError) : (portErrorName e).isResourceError = false := by
  cases e with
  | tooShort => rfl
  | invalid f => cases f <;> rfl

/-! ## The errors of a `DEC` (R103, R105, R108, R109) -/

theorem needMoreData_error {c : Params} {n : Nat} {e : ErrorName} (he : needMoreData c n = .error e) :
    e = .bufferTooSmall ∧ c.cap = some n := by
  rcases needMoreData_cases c n with ⟨hcap, hn⟩ | ⟨-, hn⟩ <;> rw [hn] at he <;> cases he
  exact ⟨rfl, hcap⟩

/-- The errors a `DEC` or a frame kind can end in: `MessageTooLarge` for the buffer or the declared length, `BufferTooSmall`
at capacity, or a structural error. -/
theorem finishDec_error_cases {c : Params} {buf : List Byte} {parsed : Except ErrorName Header} {s : State} {e : ErrorName}
    (hp : ∀ e, parsed = .error e → e.isResourceError = false)
    (hr : (finishDec (decPhase c buf parsed) s).res = .error e) :
    e.isResourceError = false ∨ (e = .bufferTooSmall ∧ c.cap = some buf.length) ∨
    (e = .messageTooLarge ∧ (c.maxFrameSize < buf.length ∨
      ∃ h, 8 ≤ buf.length ∧ parsed = .ok h ∧ c.maxFrameSize < frameTotal h)) := by
  rcases decPhase_cases c buf parsed with ⟨hlong, ho⟩ | ⟨-, -, ho⟩ | ⟨er, -, -, hparsed, ho⟩ |
    ⟨h, -, hlen, hparsed, hbig, ho⟩ | ⟨h, -, -, -, -, -, ho⟩ | ⟨h, er, -, -, -, -, hroute, ho⟩ |
    ⟨h, k, -, -, -, -, -, ho⟩ <;> rw [ho] at hr
  · cases hr
    exact .inr (.inr ⟨rfl, .inl hlong⟩)
  · exact .inr (.inl (needMoreData_error hr))
  · cases hr
    exact .inl (hp _ hparsed)
  · cases hr
    exact .inr (.inr ⟨rfl, .inr ⟨h, hlen, hparsed, hbig⟩⟩)
  · exact .inr (.inl (needMoreData_error hr))
  · cases hr
    exact .inl (dsp_error_structural hroute)
  · cases hc : pcodec k (sliceOf buf 8 (frameTotal h)) h with
    | error er =>
      rw [finishDec_dispatch_of_error s hc] at hr
      cases hr
      exact .inl (portErrorName_structural er)
    | ok v =>
      rw [finishDec_dispatch_of_ok s hc] at hr
      cases hr

/-! ## Small capacities (R211) -/

theorem perform_dec_of_short {s : State} (hguard : s.level ≤ s.cfg.maxFrameSize) (hshort : s.level < 8) :
    perform .dec s = s.answer (needMoreData s.cfg s.level) :=
  perform_dec_of_report (decPhase_of_short _ hguard hshort)

/-- `MessageTooLarge` of a `DEC` whose buffer passes the guard comes from the length its header declares. -/
theorem perform_dec_messageTooLarge {s : State} (hguard : s.level ≤ s.cfg.maxFrameSize)
    (hr : (perform .dec s).res = .error .messageTooLarge) :
    8 ≤ s.level ∧ ∃ h, hunpk s.cfg (s.buf.take 8) = .ok h ∧ s.cfg.maxFrameSize < frameTotal h := by
  rw [perform_dec, State.phaseOfDec_eq] at hr
  rcases finishDec_error_cases (fun e => hunpk_error_structural) hr with hs | ⟨he, -⟩ | ⟨-, hlong | ⟨h, hlen, hparsed, hbig⟩⟩
  · cases hs
  · cases he
  · exact absurd hguard hlong.not_ge
  · exact ⟨hlen, h, hparsed, hbig⟩

/-- Settles O40: the invariant keeps the level within the capacity, hence below 8 or within `MAX_FRAME_SIZE`. -/
theorem smallCapacities : Obligations.SmallCapacities := by
  intro s n hs hcap
  have hlevel : s.level ≤ n := hs.withinCap n hcap
  have hmax : 8 ≤ s.cfg.maxFrameSize := hs.configured.2.1
  refine ⟨fun hn => ?_, fun hn => ⟨hlevel.trans hn, perform_dec_messageTooLarge (hlevel.trans hn)⟩⟩
  have hshort : s.level < 8 := hlevel.trans_lt hn
  rw [perform_dec_of_short (hshort.le.trans hmax) hshort, State.answer_res]
  by_cases hfull : s.level = n
  · rw [if_pos hfull, needMoreData_of_full (hfull ▸ hcap)]
  · have hroom : s.cfg.cap ≠ some s.level := fun h => hfull (Option.some.inj (h.symm.trans hcap))
    rw [if_neg hfull, needMoreData_of_room hroom]

/-! ## The errors of the pure operations -/

theorem hunpkOutcome_error_iff {c : Params} {l : List Byte} {e : ErrorName} :
    hunpkOutcome c l = .error e ↔ hunpk c l = .error e := by
  rw [hunpkOutcome]
  cases hunpk c l <;> simp

theorem hpk_error_iff {c : Params} {h : Header} {e : ErrorName} : hpk c h = .error e ↔ headerCheck c h = .error e := by
  rw [hpk]
  cases headerCheck c h <;> simp

theorem hpkOutcome_error_iff {c : Params} {h : Header} {e : ErrorName} :
    hpkOutcome c h = .error e ↔ headerCheck c h = .error e := by
  rw [hpkOutcome, ← hpk_error_iff]
  cases hpk c h <;> simp

theorem dspOutcome_error_iff {t : TypeCode} {e : ErrorName} : dspOutcome t = .error e ↔ dsp t = .error e := by
  rw [dspOutcome]
  cases dsp t <;> simp

/-- The errors of `ENC` (R136): its two cross-checks and the checks of the header. -/
theorem encOutcome_error {c : Params} {h : Header} {kp : Route} {v : Payload} {e : ErrorName}
    (he : encOutcome c h kp v = .error e) :
    e = .payloadTypeValidation ∨ (dsp h.type = .ok kp ∧ headerCheck c h = .error e) ∨ e = .payloadLengthValidation := by
  rw [encOutcome] at he
  rcases encFrame_cases c h kp v with ⟨-, hf⟩ | ⟨er, hd, hc, hf⟩ | ⟨-, -, -, hf⟩ | ⟨-, -, -, hf⟩ <;> rw [hf] at he <;> cases he
  · exact .inl rfl
  · exact .inr (.inl ⟨hd, hc⟩)
  · exact .inr (.inr rfl)

/-! ## The unbounded variant (R114) -/

/-- Only a full buffer is too small. -/
theorem full_of_bufferTooSmall {i : Instr} {s : State} (hr : (perform i s).res = .error .bufferTooSmall) :
    s.full = true := by
  have ofDec {parsed : Except ErrorName Header} (hp : ∀ e, parsed = .error e → e.isResourceError = false)
      (hr : (finishDec (decPhase s.cfg s.buf parsed) s).res = .error .bufferTooSmall) : s.full = true := by
    rcases finishDec_error_cases hp hr with hs | ⟨-, hcap⟩ | ⟨he, -⟩
    · cases hs
    · exact State.full_iff.2 hcap
    · cases he
  rcases instr_cases i with ⟨p, hp⟩ | ⟨k, ver, inv, len, rfl⟩
  · cases i
    case rst => cases hr
    case push b => rcases perform_push_res_cases b s with e | e <;> rw [e] at hr <;> cases hr
    case dec => exact ofDec (fun e => hunpk_error_structural) hr
    case skip n => rcases perform_skip_res_cases n s with e | e <;> rw [e] at hr <;> cases hr
    case hunpk l => cases hunpk_error_structural (hunpkOutcome_error_iff.1 hr)
    case hpk h => cases headerCheck_error_structural (hpkOutcome_error_iff.1 hr)
    case dsp t => cases dsp_error_structural (dspOutcome_error_iff.1 hr)
    case dspinv k => cases hr
    case enc h kp v =>
      rcases encOutcome_error hr with e | ⟨-, hc⟩ | e
      · cases e
      · cases headerCheck_error_structural hc
      · cases e
    all_goals cases hp
  · rw [perform_of_exec (exec_ofRoute k ver inv len s)] at hr
    exact ofDec (fun e => headerCheck_error_structural) hr

/-- Settles O41: a buffer without a capacity is never full, and only a full one is too small or refuses a byte. -/
theorem unboundedBufferNeverFills : Obligations.UnboundedBufferNeverFills := by
  intro i s hcap
  have hroom : s.full = false := by
    rw [← Bool.not_eq_true, State.full_iff, hcap]
    exact (Option.some_ne_none _).symm
  refine ⟨fun hr => ?_, ?push⟩
  · rw [full_of_bufferTooSmall hr] at hroom
    cases hroom
  case push =>
    rintro b rfl
    rw [perform_push_of_not_full b hroom, State.answer_res]

/-! ## `DRAIN` (R61) -/

theorem drain_succ_of_frame {s : State} (n : Nat) (hr : (perform .dec s).res.isFrame = true) :
    drain (n + 1) s = ((perform .dec s).res :: (drain n (perform .dec s)).1, (drain n (perform .dec s)).2) :=
  if_pos hr

theorem drain_succ_of_not_frame {s : State} (n : Nat) (hr : (perform .dec s).res.isFrame = false) :
    drain (n + 1) s = ([(perform .dec s).res], perform .dec s) :=
  if_neg (by rw [hr]; exact Bool.false_ne_true)

/-- With a bound above an eighth of the level `DRAIN` ends in an outcome that is no frame: each frame takes 8 bytes. -/
theorem drain_ends {n : Nat} {s : State} (hn : s.level < 8 * n) :
    ∃ fs o, (drain n s).1 = fs ++ [o] ∧ (∀ f ∈ fs, f.isFrame = true) ∧ o.isFrame = false ∧ (drain n s).2.res = o := by
  induction n generalizing s with
  | zero => exact absurd hn (Nat.not_lt_zero _)
  | succ n ih =>
    cases hr : (perform .dec s).res.isFrame with
    | false =>
      rw [drain_succ_of_not_frame n hr]
      exact ⟨[], _, rfl, by simp, hr, rfl⟩
    | true =>
      have hshrinks := perform_dec_level_of_frame hr
      obtain ⟨fs, o, houts, hfs, ho, hlast⟩ := ih (s := perform .dec s) (by omega)
      rw [drain_succ_of_frame n hr]
      refine ⟨(perform .dec s).res :: fs, o, congrArg _ houts, ?_, ho, hlast⟩
      exact List.forall_mem_cons.2 ⟨hr, hfs⟩

/-- Settles O43: one `DEC` more than an eighth of the level is such a bound. -/
theorem drainTerminates : Obligations.DrainTerminates := fun s => drain_ends (by omega)

/-! ## The states of R204 -/

theorem perform_dec_res_cases (s : State) :
    (perform .dec s).res = .incomplete ∨ (∃ h k v, (perform .dec s).res = .frame h k v) ∨
      ∃ e, (perform .dec s).res = .error e :=
  finishDec_decPhase_res_cases s.cfg s.buf _ s

/-- A block whose configuration meets R5 is fully decoded right after reset (R203). -/
theorem fullyDecoded_resetWith {c : Params} (hc : c.Valid) : FullyDecoded (State.resetWith c) := by
  obtain ⟨hcap, -⟩ := hc
  have hroom : c.cap ≠ some 0 := fun h => absurd (hcap 0 h) (by decide)
  have hdec := perform_dec_of_short (s := State.resetWith c) (Nat.zero_le _) (Nat.zero_lt_succ 7)
  refine ⟨?_, rfl⟩
  rw [hdec, State.answer_res]
  exact needMoreData_of_room hroom

/-- Settles O44: the three outcomes of a `DEC` are the classes, `Incomplete` being split by the level. -/
theorem decClassifiesEveryState : Obligations.DecClassifiesEveryState := by
  intro s
  refine ⟨?_, ?_, fun hs => ?_, fun c => fullyDecoded_resetWith⟩
  · rcases perform_dec_res_cases s with hr | ⟨h, k, v, hr⟩ | ⟨e, hr⟩
    · rcases Nat.eq_zero_or_pos s.level with hempty | hsome
      · exact .inl ⟨hr, hempty⟩
      · exact .inr (.inl ⟨hr, hsome⟩)
    · exact .inr (.inr (.inr (by rw [hr]; rfl)))
    · exact .inr (.inr (.inl (by rw [Failed, hr]; rfl)))
  · rintro ⟨hfailed, ⟨hr, -⟩ | ⟨hr, -⟩⟩ <;> rw [Failed, hr] at hfailed <;> cases hfailed
  · rw [perform_skip_of_lt (hs.2.trans_lt Nat.zero_lt_one), State.answer_res]

/-! ## Refused (R189) -/

/-- The outcome `Refused` belongs to a `PUSH` on a full buffer and to a `SKIP` past the level alone. -/
theorem perform_res_refused_iff (i : Instr) (s : State) :
    (perform i s).res = .refused ↔ (∃ b, i = .push b ∧ s.full = true) ∨ ∃ n, i = .skip n ∧ s.level < n := by
  constructor
  · intro hr
    rcases instr_cases i with ⟨p, hp⟩ | ⟨k, ver, inv, len, rfl⟩
    · cases i
      case rst => cases hr
      case push b =>
        cases hf : s.full with
        | true => exact .inl ⟨b, rfl, rfl⟩
        | false => rw [perform_push_of_not_full b hf] at hr; cases hr
      case dec => rcases perform_dec_res_cases s with e | ⟨_, _, _, e⟩ | ⟨_, e⟩ <;> rw [e] at hr <;> cases hr
      case skip n =>
        rcases Nat.lt_or_ge s.level n with hlt | hle
        · exact .inr ⟨n, rfl, hlt⟩
        · rw [perform_skip_of_le hle] at hr; cases hr
      case hunpk l => rcases hunpkOutcome_cases s.cfg l with ⟨_, e⟩ | ⟨_, e⟩ <;> cases e.symm.trans hr
      case hpk h => rcases hpkOutcome_cases s.cfg h with ⟨_, e⟩ | ⟨_, e⟩ <;> cases e.symm.trans hr
      case dsp t => rcases dspOutcome_cases t with ⟨_, e⟩ | ⟨_, e⟩ <;> cases e.symm.trans hr
      case dspinv k => cases hr
      case enc h kp v => rcases encOutcome_cases s.cfg h kp v with ⟨_, e⟩ | ⟨_, e⟩ <;> cases e.symm.trans hr
      all_goals cases hp
    · rw [perform_of_exec (exec_ofRoute k ver inv len s)] at hr
      rcases finishDec_decPhase_res_cases s.cfg s.buf (headerCheck s.cfg ⟨ver, inv, k.code, len⟩) s with
        e | ⟨_, _, _, e⟩ | ⟨_, e⟩ <;> cases e.symm.trans hr
  · rintro (⟨b, rfl, hf⟩ | ⟨n, rfl, hlt⟩)
    · rw [perform_push_of_full b hf, State.answer_res]
    · rw [perform_skip_of_lt hlt, State.answer_res]

/-- A select code past `1000` names no operation (R58). -/
theorem decodeOp_of_unassigned {p : OpPort} (hp : 0b1001 ≤ p.sel.toNat) :
    decodeOp p = .error (.unassignedSelect p.sel) := by
  unfold decodeOp
  split
  case h_10 => rfl
  all_goals omega

/-- Settles O60: a refused operation merely answers, and an unassigned select code fetches nothing to perform. -/
theorem refusedMeansNotEnabled : Obligations.RefusedMeansNotEnabled := by
  refine ⟨fun i s t hexec => ?perform, fun s p rest hops hp => ?unassigned⟩
  case perform =>
    obtain rfl := perform_of_exec hexec
    refine ⟨perform_res_refused_iff i s, fun hr => ?_⟩
    rcases (perform_res_refused_iff i s).1 hr with ⟨b, rfl, hf⟩ | ⟨n, rfl, hlt⟩
    · exact perform_push_of_full b hf
    · exact perform_skip_of_lt hlt
  case unassigned =>
    exact step_of_unassigned hops (fetchInstr_of_error s (decodeOp_of_unassigned hp))

end Sys2Proof.Machine
end

section
/-! Proofs about the pure units: the round trip of the header codec (O23), complement pairs (O24), what the pure operations
touch (O25), the fields of `RES` (O17), and the encoder: its pseudocode (O45), its completion (O46), its output (O47) and its
errors (O48). -/

namespace Sys2Proof.Machine

/-! ## The header codec (R81) -/

theorem hunpk_toBytes {c : Params} (h : Header) : hunpk c h.toBytes = headerCheck c h :=
  hunpk_of_ofBytes h.ofBytes_toBytes

/-- Settles O23: packing and unpacking run the same checks, and the bytes of a header unpack to it. -/
theorem headerPackUnpackRoundTrip : Obligations.HeaderPackUnpackRoundTrip := by
  intro c
  refine ⟨fun h hv => ?packed, fun b h hlen hb => ?unpacked, fun b h e hhead => ?failing⟩
  case packed => exact ⟨h.toBytes, hpk_of_valid hv, h.toBytes_length, (hunpk_toBytes h).trans (headerCheck_of_valid hv)⟩
  case unpacked =>
    obtain ⟨hhead, hv⟩ := hunpk_ok hb
    rw [hpk_of_valid hv, Header.toBytes_of_ofBytes hhead, List.take_of_length_le hlen.le]
  case failing => rw [hunpk_of_ofBytes hhead, hpk_error_iff]

/-- Settles O24: the check byte of a valid header is the complement of its version, whatever the version. -/
theorem onlyComplementPairsAreValid : Obligations.OnlyComplementPairsAreValid := by
  intro c b h hb
  obtain ⟨-, hv⟩ := hunpk_ok hb
  obtain ⟨-, hinv, -⟩ := hdrValid_iff.1 hv
  refine ⟨?sum, ?xor, ?sentinel⟩
  case sum =>
    have hlt := h.ver.isLt
    rw [hinv, BitVec.toNat_not]
    omega
  case xor =>
    rw [hinv, BitVec.xor_comm, ← BitVec.not_xor_left, BitVec.xor_self]
    rfl
  case sentinel =>
    intro hver
    rw [hinv, hver]
    rfl

/-! ## The pure operations (R23, R70) -/

/-- A pure operation answers an outcome that the configuration alone decides. -/
theorem exec_of_pure {i : Instr} (hi : (∃ b, i = .hunpk b) ∨ (∃ h, i = .hpk h) ∨ (∃ t, i = .dsp t) ∨
    (∃ k, i = .dspinv k) ∨ ∃ h kp v, i = .enc h kp v) :
    ∃ outcome : Params → OpOutcome, ∀ s, exec i s = .next (s.answer (outcome s.cfg)) := by
  rcases hi with ⟨b, rfl⟩ | ⟨h, rfl⟩ | ⟨t, rfl⟩ | ⟨k, rfl⟩ | ⟨h, kp, v, rfl⟩
  · exact ⟨(hunpkOutcome · b), fun s => exec_hunpk s b⟩
  · exact ⟨(hpkOutcome · h), fun s => exec_hpk s h⟩
  · exact ⟨fun _ => dspOutcome t, fun s => exec_dsp s t⟩
  · exact ⟨fun _ => .code k.code, fun s => exec_dspinv s k⟩
  · exact ⟨(encOutcome · h kp v), fun s => exec_enc s h kp v⟩

/-- Settles O25: answering an outcome changes `RES` only, and the outcome is the configuration's. -/
theorem pureOperationsTouchOnlyRes : Obligations.PureOperationsTouchOnlyRes := by
  intro i hi
  obtain ⟨outcome, hexec⟩ := exec_of_pure hi
  refine ⟨fun s t ht => ?frame, fun s s' hcfg => ?reads⟩
  case frame =>
    rw [hexec s] at ht
    cases ht
    exact ⟨rfl, fun a => State.readByte_answer s _ a⟩
  case reads =>
    rw [perform_of_exec (hexec s), perform_of_exec (hexec s'), State.answer_res, State.answer_res, hcfg]

/-! ## The fields of `RES` (R15) -/

@[simp] theorem packedWord_toBytes (h : Header) : packedWord h.toBytes = h.toWord := by
  rw [packedWord, Header.ofBytes_toBytes]

/-- The bytes that `HPK` answers are those of its header. -/
theorem hpkOutcome_bytes {c : Params} {h : Header} {b : List Byte} (hb : hpkOutcome c h = .bytes .hpk b) :
    b = h.toBytes := by
  rw [hpkOutcome_eq_ite] at hb
  split_ifs at hb
  cases hb
  rfl

theorem OpOutcome.kind_le (o : OpOutcome) : o.kind.toNat ≤ 9 := by cases o <;> simp [OpOutcome.kind]

/-- Settles O17: the fields of every outcome are read off their definitions, the packed header by unpacking it. -/
theorem resFieldsShowTheOutcome : Obligations.ResFieldsShowTheOutcome := by
  have packed (h : Header) : (OpOutcome.bytes .hpk h.toBytes).hdrField = h.toWord := packedWord_toBytes h
  refine ⟨⟨rfl, rfl⟩, ⟨rfl, rfl⟩, fun _ _ _ => ⟨rfl, rfl⟩, fun _ => ⟨rfl, rfl⟩, fun h => ⟨?_, rfl⟩,
    fun _ _ _ => hpkOutcome_bytes, fun _ => ⟨rfl, rfl⟩, fun _ => ⟨rfl, rfl⟩, fun _ => ⟨rfl, rfl⟩, ⟨rfl, rfl⟩,
    fun _ => ⟨rfl, rfl⟩, ⟨rfl, rfl⟩, OpOutcome.kind_le⟩
  dsimp only
  rw [packed]
  rfl

/-! ## The encoder (R131 to R137) -/

theorem encOutcome_eq_ite (c : Params) (h : Header) (kp : Route) (v : Payload) :
    encOutcome c h kp v =
      if dsp h.type ≠ .ok kp then .error .payloadTypeValidation
      else
        match hpk c h with
        | .error e => .error e
        | .ok hb =>
          if (penc kp v).length ≠ h.len.toNat then .error .payloadLengthValidation
          else .bytes .enc (hb ++ penc kp v) := by
  rw [encOutcome]
  rcases encFrame_cases c h kp v with ⟨hd, e⟩ | ⟨er, hd, hc, e⟩ | ⟨hd, hv, hl, e⟩ | ⟨hd, hv, hl, e⟩ <;> rw [e]
  · rw [if_pos hd]
  · rw [if_neg (not_not_intro hd), hpk_of_headerCheck_error hc]
  · rw [if_neg (not_not_intro hd), hpk_of_valid hv]
    exact (if_pos hl).symm
  · rw [if_neg (not_not_intro hd), hpk_of_valid hv]
    exact (if_neg (not_not_intro hl)).symm

/-- `ENC` answers a frame only for a consistent message, and the frame is the header's bytes and the payload's. -/
theorem encOutcome_bytes {c : Params} {h : Header} {kp : Route} {v : Payload} {f : List Byte}
    (hf : encOutcome c h kp v = .bytes .enc f) :
    dsp h.type = .ok kp ∧ hdrValid c h = true ∧ (penc kp v).length = h.len.toNat ∧ f = h.toBytes ++ penc kp v := by
  rw [encOutcome] at hf
  rcases encFrame_cases c h kp v with ⟨-, e⟩ | ⟨er, -, -, e⟩ | ⟨-, -, -, e⟩ | ⟨hd, hv, hl, e⟩ <;> rw [e] at hf <;> cases hf
  exact ⟨hd, hv, hl, rfl⟩

theorem encOutcome_bytes_length {c : Params} {h : Header} {kp : Route} {v : Payload} {f : List Byte}
    (hf : encOutcome c h kp v = .bytes .enc f) : f.length = 8 + h.len.toNat := by
  obtain ⟨-, -, hl, rfl⟩ := encOutcome_bytes hf
  rw [List.length_append, Header.toBytes_length, hl]

/-- Settles O45: the ends of `ENC` are those of the pseudocode, and `OUT` shows the bytes of the answer. -/
theorem encFollowsItsPseudocode : Obligations.EncFollowsItsPseudocode := by
  intro h kp v s
  refine ⟨?answer, fun f hf => ⟨State.out_of_res_bytes hf, encOutcome_bytes_length hf⟩, fun e => State.out_of_res_error⟩
  case answer =>
    rw [exec_enc, encOutcome_eq_ite]
    rfl

/-- Settles O46: a consistent message passes the type check, the checks of the header and the length check. -/
theorem encEmitsConsistentMessages : Obligations.EncEmitsConsistentMessages := by
  intro h kp v s hv htype hl
  have hroute : dsp h.type = .ok kp := dsp_ok_iff.2 htype
  rw [exec_enc, encOutcome_eq_ite, if_neg (not_not_intro hroute), hpk_of_valid hv]
  dsimp only
  rw [if_neg (not_not_intro hl), State.answer]

/-- Settles O47: the frame is the header's 8 bytes and the payload's, and the header is valid. -/
theorem encOutputIsAValidFrame : Obligations.EncOutputIsAValidFrame := by
  intro h kp v s t f hexec hf
  have ht := perform_of_exec hexec
  rw [← ht] at hf ⊢
  obtain ⟨hroute, hv, -, hbytes⟩ := encOutcome_bytes hf
  have hhead : f.take 8 = h.toBytes := by rw [hbytes, List.take_left' h.toBytes_length]
  have hpayload : f.drop 8 = penc kp v := by rw [hbytes, List.drop_left' h.toBytes_length]
  rw [hhead]
  exact ⟨encOutcome_bytes_length hf, hpk_of_valid hv, hv, (hunpk_toBytes h).trans (headerCheck_of_valid hv), hroute,
    hpayload, State.out_of_res_bytes hf⟩

/-- Settles O48: the type cross-check comes first, so the checks of the header cannot find the type unknown. -/
theorem encReportsFourErrors : Obligations.EncReportsFourErrors := by
  intro h kp v s e he
  rcases encOutcome_error he with rfl | ⟨hd, hc⟩ | rfl
  · exact .inl rfl
  · rcases headerCheck_cases s.cfg h with ⟨-, hh⟩ | ⟨-, -, hh⟩ | ⟨-, -, htype, -⟩ | ⟨-, hh⟩
    · cases hh.symm.trans hc
      exact .inr (.inl rfl)
    · cases hh.symm.trans hc
      exact .inr (.inr (.inl rfl))
    · exact absurd (mem_typeCodes_iff.2 ⟨kp, dsp_ok_iff.1 hd⟩) htype
    · cases hh.symm.trans hc
  · exact .inr (.inr (.inr rfl))

end Sys2Proof.Machine
end

section
/-! Proofs about streams of frames (42_framing_decoder.md): how the bytes arrive does not matter (O42), and the round trip of a
message through the machine's own steps (O49). -/

namespace Sys2Proof.Machine

/-! ## Frames and parts of frames at the head of the buffer (R119) -/

theorem perform_dec_of_wire {s : State} {f : GoodFrame} {rest : List Byte} (hf : f.Accepted s.cfg)
    (hbuf : s.buf = f.wire ++ rest) (hguard : s.level ≤ s.cfg.maxFrameSize) :
    perform .dec s = { s with
      buf := rest, consumed := s.consumed + frameTotal f.header, frames := s.frames + 1, res := f.outcome } :=
  perform_of_exec (decEmitsTheFrameAtTheHead s f rest hf hbuf hguard)

/-- A frame declares its own size, so no frame is a proper beginning of another. -/
theorem GoodFrame.Framed.wire_length_eq_of_prefix {c : Params} {f g : GoodFrame} (hf : f.Framed c) (hg : g.Framed c)
    (hfg : f.wire <+: g.wire) : f.wire.length = g.wire.length := by
  obtain ⟨rest, hrest⟩ := hfg
  have hfHead := hf.hunpk_wire rest
  have hgHead := hg.hunpk_wire []
  rw [List.append_nil, ← hrest] at hgHead
  have hheader : f.header = g.header := Except.ok.inj (hfHead.symm.trans hgHead)
  rw [hf.wire_length, hg.wire_length, hheader]

theorem PartialFrame.of_prefix {c : Params} {part tail : List Byte} (htail : PartialFrame c tail)
    (hpart : part <+: tail) : PartialFrame c part := by
  rcases htail with rfl | ⟨g, hg, hprefix, hne⟩
  · exact .inl (List.prefix_nil.1 hpart)
  · refine .inr ⟨g, hg, hpart.trans hprefix, ?_⟩
    rintro rfl
    exact hne (hprefix.eq_of_length_le hpart.length_le)

/-- A part of a frame has no complete frame at its head. -/
theorem PartialFrame.not_frameAtHead {s : State} (hpart : PartialFrame s.cfg s.buf) : ¬ FrameAtHead s := by
  rintro ⟨f, hf, hhead⟩
  have hfits := hhead.length_le
  rcases hpart with hempty | ⟨g, hg, hprefix, hne⟩
  · have hheader := eight_le_frameTotal f.header
    rw [hempty, hf.framed.wire_length, List.length_nil] at hfits
    omega
  · have hshorter : s.buf.length < g.wire.length :=
      lt_of_le_of_ne hprefix.length_le fun h => hne (hprefix.eq_of_length h)
    have hsame := hf.framed.wire_length_eq_of_prefix hg (hhead.trans hprefix)
    omega

/-- A `DEC` on a part of a frame, with room for more, waits for more (R105, R109). -/
theorem perform_dec_of_partialFrame {s : State} (hpart : PartialFrame s.cfg s.buf)
    (hguard : s.level ≤ s.cfg.maxFrameSize) (hroom : s.full = false) : perform .dec s = s.answer .incomplete := by
  have hneed : needMoreData s.cfg s.buf.length = .incomplete :=
    needMoreData_of_room fun hcap => by rw [State.full_iff.2 hcap] at hroom; cases hroom
  rcases Nat.lt_or_ge s.buf.length 8 with hshort | hlen
  · exact (perform_dec_of_short hguard hshort).trans (congrArg _ hneed)
  rcases hpart with hempty | ⟨g, hg, ⟨rest, hrest⟩, hne⟩
  · rw [hempty] at hlen
    cases hlen
  have hparsed : hunpk s.cfg (s.buf.take 8) = .ok g.header := by
    rw [← List.take_append_of_le_length (l₂ := rest) hlen, hrest, ← List.append_nil g.wire]
    exact hg.hunpk_wire []
  have hshorter : s.buf.length < frameTotal g.header := by
    rw [← hg.wire_length]
    exact lt_of_le_of_ne (List.IsPrefix.length_le ⟨rest, hrest⟩) fun h => hne (List.IsPrefix.eq_of_length ⟨rest, hrest⟩ h)
  refine perform_dec_of_report ?_
  rw [State.phaseOfDec_eq, hparsed, decPhase_of_incomplete hguard hlen hg.bounded hshorter, hneed]

/-- A beginning of a stream of frames with a part after them starts with the first of the frames, or is a part of one. -/
theorem stream_head_cases {c : Params} {frames : List GoodFrame} {tail buf rest : List Byte}
    (hframes : ∀ f ∈ frames, f.Accepted c) (htail : PartialFrame c tail)
    (hstream : buf ++ rest = frames.flatMap GoodFrame.wire ++ tail) :
    (∃ f fs after, frames = f :: fs ∧ buf = f.wire ++ after ∧ after ++ rest = fs.flatMap GoodFrame.wire ++ tail) ∨
    PartialFrame c buf := by
  cases frames with
  | nil => exact .inr (htail.of_prefix ⟨rest, hstream⟩)
  | cons f fs =>
    rw [List.flatMap_cons, List.append_assoc] at hstream
    rcases List.append_eq_append_iff.1 hstream with ⟨missing, hwire, hrest⟩ | ⟨after, hbuf, hafter⟩
    · by_cases hcomplete : buf = f.wire
      · refine .inl ⟨f, fs, [], rfl, by rw [List.append_nil, hcomplete], ?_⟩
        rwa [hcomplete, List.append_cancel_left_eq] at hstream
      · exact .inr (.inr ⟨f, (hframes f List.mem_cons_self).framed, ⟨missing, hwire.symm⟩, hcomplete⟩)
    · exact .inl ⟨f, fs, after, rfl, hbuf, hafter.symm⟩

/-! ## What a trace delivers -/

/-- A trace delivers frames and a part: its frame outcomes are those of the frames in order, no other is an error, and it ends
waiting for the rest of the part, which the buffer holds. -/
structure Delivers (trace : List Instr) (s : State) (frames : List GoodFrame) (tail : List Byte) : Prop where
  emitted  : (outcomes trace s).filter OpOutcome.isFrame = frames.map GoodFrame.outcome
  noError  : ∀ o ∈ outcomes trace s, o = .done ∨ o = .incomplete ∨ o.isFrame = true
  waiting  : (performAll trace s).res = .incomplete
  leftOver : (performAll trace s).buf = tail

section Delivers

variable {i : Instr} {is : List Instr} {s : State} {frames : List GoodFrame} {tail : List Byte}

/-- An operation that emits nothing and fails nothing adds nothing to what a trace delivers. -/
theorem Delivers.cons_of_quiet (hr : (perform i s).res = .done ∨ (perform i s).res = .incomplete)
    (hd : Delivers is (perform i s) frames tail) : Delivers (i :: is) s frames tail := by
  have hquiet : ¬ (perform i s).res.isFrame = true := by rcases hr with e | e <;> rw [e] <;> exact Bool.false_ne_true
  refine ⟨(List.filter_cons_of_neg hquiet).trans hd.emitted, List.forall_mem_cons.2 ⟨?_, hd.noError⟩, hd.waiting, hd.leftOver⟩
  exact hr.imp_right .inl

/-- An operation that emits a frame puts it before what the rest of the trace delivers. -/
theorem Delivers.cons_of_frame {f : GoodFrame} (hr : (perform i s).res = f.outcome)
    (hd : Delivers is (perform i s) frames tail) : Delivers (i :: is) s (f :: frames) tail := by
  have hframe : (perform i s).res.isFrame = true := by rw [hr]; rfl
  refine ⟨?_, List.forall_mem_cons.2 ⟨.inr (.inr hframe), hd.noError⟩, hd.waiting, hd.leftOver⟩
  rw [outcomes, List.filter_cons_of_pos hframe, hd.emitted, List.map_cons, hr]

/-- A last `DEC` that waits delivers the part that the buffer holds. -/
theorem Delivers.of_waiting (hdec : perform .dec s = s.answer .incomplete) : Delivers [.dec] s [] s.buf := by
  refine ⟨?_, ?_, ?_, ?_⟩ <;> simp [outcomes, performAll, hdec, OpOutcome.isFrame]

end Delivers

theorem offered_push (b : Byte) (is : List Instr) : offered (.push b :: is) = b :: offered is := rfl

theorem offered_dec (is : List Instr) : offered (.dec :: is) = offered is := rfl

/-- What is buffered and what is still offered make up the frames still to come and the part; a host that meets its duties
then gets them delivered, by induction over its trace. -/
theorem delivers_of_dutiesMet {is : List Instr} {s : State} {frames : List GoodFrame} {tail : List Byte}
    (hframes : ∀ f ∈ frames, f.Accepted s.cfg) (htail : PartialFrame s.cfg tail)
    (hstream : s.buf ++ offered is = frames.flatMap GoodFrame.wire ++ tail) (hduties : DutiesMet (is ++ [.dec]) s)
    (hlast : (performAll (is ++ [.dec]) s).res.isFrame = false) : Delivers (is ++ [.dec]) s frames tail := by
  induction is generalizing s frames with
  | nil =>
    obtain ⟨⟨hguard, hhead⟩, -⟩ := hduties
    rw [offered, List.append_nil] at hstream
    cases frames with
    | nil =>
      obtain rfl : s.buf = tail := hstream
      have hroom : s.full = false := Bool.eq_false_iff.2 fun hfull => htail.not_frameAtHead (hhead hfull)
      exact .of_waiting (perform_dec_of_partialFrame htail hguard hroom)
    | cons f fs =>
      rw [List.flatMap_cons, List.append_assoc] at hstream
      have hdec := perform_dec_of_wire (hframes f List.mem_cons_self) hstream hguard
      rw [List.nil_append, performAll, performAll, hdec] at hlast
      cases hlast
  | cons i is ih =>
    obtain ⟨hduty, hduties⟩ := hduties
    rw [List.cons_append, performAll] at hlast
    cases i
    case push b =>
      have hpush := perform_push_of_not_full b hduty
      refine Delivers.cons_of_quiet (.inl (by rw [hpush, State.answer_res])) ?_
      refine ih (by rwa [perform_cfg]) (by rwa [perform_cfg]) ?_ hduties hlast
      rw [hpush, State.answer_buf, State.appendByte_buf, ← hstream, offered_push, ← List.append_cons]
    case dec =>
      obtain ⟨hguard, hhead⟩ := hduty
      rw [offered_dec] at hstream
      rcases stream_head_cases hframes htail hstream with ⟨f, fs, after, rfl, hbuf, hafter⟩ | hpart
      · obtain ⟨hf, hfs⟩ := List.forall_mem_cons.1 hframes
        have hdec := perform_dec_of_wire hf hbuf hguard
        refine Delivers.cons_of_frame (by rw [hdec]) ?_
        exact ih (by rwa [perform_cfg]) (by rwa [perform_cfg]) (by rw [hdec]; exact hafter) hduties hlast
      · have hroom : s.full = false := Bool.eq_false_iff.2 fun hfull => hpart.not_frameAtHead (hhead hfull)
        have hdec := perform_dec_of_partialFrame hpart hguard hroom
        refine Delivers.cons_of_quiet (.inr (by rw [hdec, State.answer_res])) ?_
        exact ih (by rwa [perform_cfg]) (by rwa [perform_cfg]) (by rw [hdec]; exact hstream) hduties hlast
    all_goals exact hduty.elim

/-- Settles O42: from an empty buffer, the bytes offered are the frames still to come and the part. -/
theorem chunkingDoesNotMatter : Obligations.ChunkingDoesNotMatter := by
  intro s frames tail is _ hbuf hframes htail hoffered hduties hlast
  have hstream : s.buf ++ offered is = frames.flatMap GoodFrame.wire ++ tail := by rw [hbuf, List.nil_append, hoffered]
  obtain ⟨hemitted, hnoError, hwaiting, hleftOver⟩ := delivers_of_dutiesMet hframes htail hstream hduties hlast
  exact ⟨hemitted, hnoError, hwaiting, hleftOver⟩

/-! ## Running a trace as the host's queue (R40) -/

theorem finishDec_takeOp (p : DecPhase) (s : State) (rest : List OpPort) :
    finishDec p (s.takeOp rest) = (finishDec p s).takeOp rest := by
  cases p with
  | report o => rfl
  | dispatch h k slice =>
    cases hc : pcodec k slice h with
    | error e => rw [finishDec_dispatch_of_error _ hc, finishDec_dispatch_of_error _ hc]; rfl
    | ok v => rw [finishDec_dispatch_of_ok _ hc, finishDec_dispatch_of_ok _ hc]; rfl

/-- No instruction reads the operations that the host has still to issue. -/
theorem perform_takeOp (i : Instr) (s : State) (rest : List OpPort) :
    perform i (s.takeOp rest) = (perform i s).takeOp rest := by
  rcases instr_cases i with ⟨p, hp⟩ | ⟨k, ver, inv, len, rfl⟩
  · cases i
    case push b =>
      cases hf : s.full with
      | true => rw [perform_push_of_full b hf, perform_push_of_full (s := s.takeOp rest) b hf]; rfl
      | false => rw [perform_push_of_not_full b hf, perform_push_of_not_full (s := s.takeOp rest) b hf]; rfl
    case skip n =>
      rcases Nat.lt_or_ge s.level n with hlt | hle
      · rw [perform_skip_of_lt hlt, perform_skip_of_lt (s := s.takeOp rest) hlt]; rfl
      · rw [perform_skip_of_le hle, perform_skip_of_le (s := s.takeOp rest) hle]; rfl
    case dec => exact finishDec_takeOp s.phaseOfDec s rest
    case rst | hunpk | hpk | dsp | dspinv | enc => rfl
    all_goals cases hp
  · rw [perform_of_exec (exec_ofRoute k ver inv len _), perform_of_exec (exec_ofRoute k ver inv len s)]
    exact finishDec_takeOp _ s rest

theorem presented_cons {i : Instr} {p : OpPort} (hp : encode i = .cmd p) (is : List Instr) :
    presented (i :: is) = p :: presented is :=
  List.filterMap_cons_some (by rw [hp])

/-- Steps on a queue of presented operations are the trace of these operations. -/
theorem run_presented {is : List Instr} (hops : ∀ i ∈ is, ∃ p, encode i = .cmd p) (s : State) :
    Host.Core.run Sys2Proof.core is.length (s.takeOp (presented is)) = .next ((performAll is s).takeOp []) := by
  induction is generalizing s with
  | nil => rfl
  | cons i is ih =>
    obtain ⟨⟨p, hp⟩, hrest⟩ := List.forall_mem_cons.1 hops
    have hstep : step (s.takeOp (p :: presented is)) = .next ((perform i s).takeOp (presented is)) :=
      calc step (s.takeOp (p :: presented is))
          = exec i (s.takeOp (presented is)) := step_of_decodeOp rfl (decodeOp_of_encode hp)
        _ = .next ((perform i s).takeOp (presented is)) := by rw [exec_eq_perform, perform_takeOp]
    rw [presented_cons hp, List.length_cons, run_of_step _ hstep, ih hrest, performAll]

/-! ## Feeding a message (R61) and getting it back (R122) -/

theorem performAll_append (is js : List Instr) (s : State) : performAll (is ++ js) s = performAll js (performAll is s) := by
  induction is generalizing s with
  | nil => rfl
  | cons i is ih => exact ih (perform i s)

/-- Within the capacity `FEED` appends its bytes, and changes nothing else but `RES`. -/
theorem performAll_feed {bytes : List Byte} {s : State} (hroom : ∀ n ∈ s.cfg.cap, s.level + bytes.length ≤ n) :
    ∃ o, performAll (feed bytes) s = State.answer { s with buf := s.buf ++ bytes } o := by
  induction bytes generalizing s with
  | nil => exact ⟨s.res, by rw [List.append_nil]; rfl⟩
  | cons b bytes ih =>
    have hnotFull : s.full = false := by
      refine Bool.eq_false_iff.2 fun hfull => ?_
      have hle := hroom s.level (State.full_iff.1 hfull)
      rw [List.length_cons] at hle
      omega
    have hpush := perform_push_of_not_full b hnotFull
    have hgrown : (s.appendByte b).level = s.level + 1 := List.length_append
    obtain ⟨o, ho⟩ := ih (s := (s.appendByte b).answer .done) fun n hn => by
      have hle : s.level + (bytes.length + 1) ≤ n := hroom n hn
      have hlevel : ((s.appendByte b).answer .done).level = s.level + 1 := hgrown
      omega
    refine ⟨o, ?_⟩
    rw [feed, List.map_cons, performAll, hpush, ← feed, ho, List.append_cons]
    rfl

/-- The message of an encoded frame, whose payload its codec takes, is an accepted frame, and its wire is the frame. -/
theorem accepted_of_encOutcome {c : Params} {h : Header} {kp : Route} {v : Payload} {f : List Byte}
    (hf : encOutcome c h kp v = .bytes .enc f) (hmax : frameTotal h ≤ c.maxFrameSize)
    (hcodec : pcodec kp (penc kp v) h = .ok v) :
    (GoodFrame.mk h kp (penc kp v) v).Accepted c ∧ (GoodFrame.mk h kp (penc kp v) v).wire = f := by
  obtain ⟨hroute, hvalid, hlength, hbytes⟩ := encOutcome_bytes hf
  exact ⟨⟨⟨hvalid, dsp_ok_iff.1 hroute, hlength, hmax⟩, hcodec⟩, hbytes.symm⟩

/-- The operations that feed a message and decode it are host operations. -/
theorem feed_dec_presented (bytes : List Byte) : ∀ i ∈ feed bytes ++ [.dec], ∃ p, encode i = .cmd p := by
  intro i hi
  rcases List.mem_append.1 hi with hfeed | hdec
  · obtain ⟨b, -, rfl⟩ := List.mem_map.1 hfeed
    exact ⟨_, rfl⟩
  · rw [List.mem_singleton.1 hdec]
    exact ⟨_, rfl⟩

/-- Settles O49: the steps are the trace, which feeds the message's frame into the empty buffer and emits it. -/
theorem encodedMessageDecodesThroughTheBlock : Obligations.EncodedMessageDecodesThroughTheBlock := by
  intro s h kp v f hf hbuf hmax hcap hcodec
  have hlength : f.length = frameTotal h := encOutcome_bytes_length hf
  obtain ⟨haccepted, hwire⟩ := accepted_of_encOutcome hf hmax hcodec
  have hlevel : s.level = 0 := congrArg List.length hbuf
  obtain ⟨o, hfed⟩ := performAll_feed (bytes := f) (s := s) fun n hn => by
    have hle := hcap n hn
    omega
  rw [hbuf, List.nil_append] at hfed
  have hdec := perform_dec_of_wire (s := State.answer { s with buf := f } o) (rest := []) haccepted
    (by rw [List.append_nil, hwire]; rfl) (by rw [← hlength] at hmax; exact hmax)
  have htrace : performAll (feed f ++ [.dec]) s = { s with
      buf := [], consumed := s.consumed + frameTotal h, frames := s.frames + 1, res := .frame h kp v } := by
    rw [performAll_append, hfed]
    exact hdec
  have hcount : f.length + 1 = (feed f ++ [Instr.dec]).length := by simp [feed]
  rw [hcount, hlength]
  exact (run_presented (feed_dec_presented f) s).trans (by rw [htrace, State.takeOp])

end Sys2Proof.Machine
end

section
/-! Proofs about the payload port (44_payload_port.md): when a payload is too short (O51), which code errors a route has (O52),
where the fields lie (O53, O54, O55, O56), and the round trip of the codecs (O50). -/

namespace Sys2Proof.Machine

/-! ## The codecs on payloads that fit (R143) -/

theorem hasSurplus_eq_false_iff {k : Route} {n : Nat} : hasSurplus k n = false ↔ ∀ m ∈ maxLen k, n ≤ m := by
  rw [hasSurplus]
  cases maxLen k <;> simp

theorem hasSurplus_minLen (k : Route) : hasSurplus k (minLen k) = false := by cases k <;> rfl

theorem pcodec_of_short {k : Route} {s : List Byte} (h : Header) (hs : s.length < minLen k) :
    pcodec k s h = .error .tooShort := if_pos hs

/-- From the minimum length on and without surplus bytes a codec decodes the fields. -/
theorem pcodec_of_fits {k : Route} {s : List Byte} (h : Header) (hmin : minLen k ≤ s.length)
    (hfit : hasSurplus k s.length = false) : pcodec k s h = decodeFields k s h := by
  rcases pcodec_cases k s h with ⟨hs, -⟩ | ⟨f, -, hsurplus, -, -⟩ | ⟨-, -, e⟩
  · exact absurd hmin hs.not_ge
  · rw [hfit] at hsurplus
    cases hsurplus
  · exact e

theorem pcodec_of_minLen {k : Route} {s : List Byte} (h : Header) (hs : s.length = minLen k) :
    pcodec k s h = decodeFields k s h :=
  pcodec_of_fits h hs.ge (hs ▸ hasSurplus_minLen k)

/-- An accepted payload, with surplus bytes or without, has the value of its fields. -/
theorem decodeFields_of_pcodec_ok {k : Route} {s : List Byte} {h : Header} {v : Payload} (hv : pcodec k s h = .ok v) :
    decodeFields k s h = .ok v := by
  rcases pcodec_cases k s h with ⟨-, e⟩ | ⟨f, -, -, -, e⟩ | ⟨-, -, e⟩ <;> rw [e] at hv
  · cases hv
  · cases hv
  · exact hv

/-! ## The code checks (R142) -/

section Checks

variable {f : CodedField} {b : Byte} {sync : Option Byte} {next : Except PortError Payload} {v : Payload} {e : PortError}

theorem checkCode_ok_iff : checkCode f b next = .ok v ↔ codeOk f b = true ∧ next = .ok v := by
  cases hc : codeOk f b <;> simp [checkCode, hc]

theorem checkCode_error (he : checkCode f b next = .error e) : e = .invalid f ∨ next = .error e := by
  cases hc : codeOk f b with
  | true => exact .inr (by simpa [checkCode, hc] using he)
  | false => exact .inl (by simpa [checkCode, hc] using he.symm)

/-- A code check of a value decides between the value and the field's error. -/
theorem checkCode_ok_value (f : CodedField) (b : Byte) (v : Payload) :
    checkCode f b (.ok v) = if codeOk f b then .ok v else .error (.invalid f) := rfl

theorem checkSync_ok_iff : checkSync sync next = .ok v ↔ (∀ b ∈ sync, codeOk .syncStatus b = true) ∧ next = .ok v := by
  cases sync with
  | none => simp [checkSync]
  | some b => simp [checkSync, checkCode_ok_iff]

theorem checkSync_error (he : checkSync sync next = .error e) : e = .invalid .syncStatus ∨ next = .error e := by
  cases sync with
  | none => exact .inr he
  | some b => exact checkCode_error he

end Checks

/-! ## VehicleAnnouncementMessage (R150) -/

/-- The sync status of a VehicleAnnouncementMessage: the byte after the others, in the long variant. -/
def vamSync (s : List Byte) (h : Header) : Option Byte := if h.len = 33#32 then s[32]? else none

/-- The value of a VehicleAnnouncementMessage, its fields at their offsets. -/
def vamValue (s : List Byte) (h : Header) : Payload :=
  .vehicleAnnouncementMessage (sliceOf s 0 17) (sliceOf s 17 19) (sliceOf s 19 25) (sliceOf s 25 31) (byteAt s 31)
    (vamSync s h)

theorem decodeVam_eq (s : List Byte) (h : Header) :
    decodeVam s h =
      if Config.syncStatusFirst then checkSync (vamSync s h) (checkCode .actionCode (byteAt s 31) (.ok (vamValue s h)))
      else checkCode .actionCode (byteAt s 31) (checkSync (vamSync s h) (.ok (vamValue s h))) := rfl

/-- Whatever the order of the two checks, both must pass. -/
theorem decodeVam_ok_iff {s : List Byte} {h : Header} {v : Payload} :
    decodeVam s h = .ok v ↔
      codeOk .actionCode (byteAt s 31) = true ∧ (∀ b ∈ vamSync s h, codeOk .syncStatus b = true) ∧ vamValue s h = v := by
  rw [decodeVam_eq]
  split
  · rw [checkSync_ok_iff, checkCode_ok_iff, Except.ok.injEq]
    exact and_left_comm
  · rw [checkCode_ok_iff, checkSync_ok_iff, Except.ok.injEq]

/-- Whatever the order of the two checks, the error is that of one of them. -/
theorem decodeVam_error {s : List Byte} {h : Header} {e : PortError} (he : decodeVam s h = .error e) :
    e = .invalid .actionCode ∨ e = .invalid .syncStatus := by
  rw [decodeVam_eq] at he
  split at he
  · rcases checkSync_error he with hsync | hrest
    · exact .inr hsync
    · exact .inl ((checkCode_error hrest).resolve_right nofun)
  · rcases checkCode_error he with haction | hrest
    · exact .inl haction
    · exact .inr ((checkSync_error hrest).resolve_right nofun)

theorem len_eq_ofNat_iff {l : PayloadLen} {n : Nat} (hn : n < 2 ^ 32) : l = BitVec.ofNat 32 n ↔ l.toNat = n := by
  rw [BitVec.toNat_eq, BitVec.toNat_ofNat, Nat.mod_eq_of_lt hn]

/-- In a payload of the declared length the sync status is there exactly when the length is that of the long variant. -/
theorem vamSync_of_length {s : List Byte} {h : Header} (hs : s.length = h.len.toNat) :
    vamSync s h = if h.len.toNat = 33 then some (byteAt s 32) else none := by
  simp only [vamSync, len_eq_ofNat_iff (n := 33) (by decide)]
  split
  · have hlt : 32 < s.length := by omega
    rw [byteAt, List.getD_eq_getElem s _ hlt, List.getElem?_eq_getElem hlt]
  · rfl

/-- Settles O53: the value of an accepted payload is `vamValue`, with the sync status of the declared length. -/
theorem syncStatusOnlyInTheLongVariant : Obligations.SyncStatusOnlyInTheLongVariant := by
  intro s h v hs hv
  obtain ⟨-, -, hvalue⟩ := decodeVam_ok_iff.1 (decodeFields_of_pcodec_ok hv)
  rw [← hvalue, vamValue, vamSync_of_length hs]

/-! ## The errors of a codec (R142, R143) -/

/-- The coded fields of each route (R145). -/
def codedFields : Route → List CodedField
  | .genericNack => [.nackCode]
  | .vehicleAnnouncementMessage => [.actionCode, .syncStatus]
  | .routingActivationRequest => [.activationType]
  | .routingActivationResponse => [.activationCode]
  | .entityStatusResponse => [.nodeType]
  | .powerInformationResponse => [.powerMode]
  | .diagnosticMessageAck => [.diagnosticAckCode]
  | .diagnosticMessageNack => [.diagnosticNackCode]
  | _ => []

/-- Decoding the fields fails only by the code check of one of the route's coded fields. -/
theorem decodeFields_error {k : Route} {s : List Byte} {h : Header} {e : PortError}
    (he : decodeFields k s h = .error e) : ∃ f ∈ codedFields k, e = .invalid f := by
  cases k
  case vehicleAnnouncementMessage =>
    rcases decodeVam_error he with e | e
    · exact ⟨_, by simp [codedFields], e⟩
    · exact ⟨_, by simp [codedFields], e⟩
  case genericNack | routingActivationRequest | routingActivationResponse | entityStatusResponse |
      powerInformationResponse | diagnosticMessageAck | diagnosticMessageNack =>
    exact ⟨_, List.mem_singleton_self _, (checkCode_error he).resolve_right nofun⟩
  all_goals cases he

/-- Settles O51: past the length test a codec answers a code error or a value. -/
theorem tooShortExactlyBelowMinimum : Obligations.TooShortExactlyBelowMinimum := by
  refine ⟨rfl, fun k s h => ⟨fun he => ?_, pcodec_of_short h⟩⟩
  rcases pcodec_cases k s h with ⟨hs, -⟩ | ⟨f, -, -, -, e⟩ | ⟨-, -, e⟩
  · exact hs
  · cases e.symm.trans he
  · obtain ⟨f, -, hf⟩ := decodeFields_error (e.symm.trans he)
    cases hf

/-- Settles O52: without surplus bytes an error of a codec is the code error of one of the route's coded fields. -/
theorem codeErrorsBelongToTheirRoute : Obligations.CodeErrorsBelongToTheirRoute := by
  intro k s h f hfit he
  rcases pcodec_cases k s h with ⟨-, e⟩ | ⟨_, -, hsurplus, -, -⟩ | ⟨-, -, e⟩
  · cases e.symm.trans he
  · rw [hfit] at hsurplus
    cases hsurplus
  · obtain ⟨g, hg, hfg⟩ := decodeFields_error (e.symm.trans he)
    cases hfg
    cases k <;> simp [codedFields] at hg ⊢ <;> exact hg

/-! ## The fields at their offsets (R145 to R161) -/

section Fields

variable {k : Route} {s : List Byte} {h : Header} {v : Payload}

/-- A route without a coded field accepts every payload of the minimum length, and gives its fields. -/
theorem pcodec_of_plain (hd : decodeFields k s h = .ok v) :
    (s.length = minLen k → pcodec k s h = .ok v) ∧ ∀ w, pcodec k s h = .ok w → w = v := by
  refine ⟨fun hs => (pcodec_of_minLen h hs).trans hd, fun w hw => ?_⟩
  exact Except.ok.inj ((decodeFields_of_pcodec_ok hw).symm.trans hd)

/-- A route with one coded field checks its byte at the minimum length, and gives its fields when the check passes. -/
theorem pcodec_of_coded {f : CodedField} {b : Byte} (hd : decodeFields k s h = checkCode f b (.ok v)) :
    (s.length = minLen k → pcodec k s h = if codeOk f b then .ok v else .error (.invalid f)) ∧
      ∀ w, pcodec k s h = .ok w → codeOk f b = true ∧ w = v := by
  refine ⟨fun hs => (pcodec_of_minLen h hs).trans (hd.trans (checkCode_ok_value f b v)), fun w hw => ?_⟩
  obtain ⟨hcode, hvalue⟩ := checkCode_ok_iff.1 (hd.symm.trans (decodeFields_of_pcodec_ok hw))
  exact ⟨hcode, (Except.ok.inj hvalue).symm⟩

end Fields

/-- Settles O55: each route's line of `decodeFields` is a value or the check of one byte before a value. -/
theorem payloadFieldsLieAtTheirOffsets : Obligations.PayloadFieldsLieAtTheirOffsets := fun _ _ =>
  ⟨pcodec_of_coded rfl, pcodec_of_plain rfl, pcodec_of_plain rfl, pcodec_of_coded rfl, pcodec_of_coded rfl,
    pcodec_of_plain rfl, pcodec_of_coded rfl, pcodec_of_coded rfl, pcodec_of_coded rfl, pcodec_of_coded rfl⟩

/-- Settles O54: the body takes the rest, so no payload of a DiagnosticMessage has surplus bytes. -/
theorem diagnosticMessageTakesTheRest : Obligations.DiagnosticMessageTakesTheRest := by
  refine fun s h => ⟨fun hmin => ⟨pcodec_of_fits h hmin rfl, fun hs => ?_⟩, fun hs => pcodec_of_short h hs⟩
  rw [List.length_drop, hs]

/-- Settles O56: each payload has its minimum length, and the codes are those the spec evidences. -/
theorem evidencedPayloads : Obligations.EvidencedPayloads := fun h =>
  ⟨pcodec_of_minLen h rfl, pcodec_of_minLen h rfl, pcodec_of_minLen h rfl, pcodec_of_minLen h rfl,
    fun _ _ _ _ => ⟨pcodec_of_minLen h rfl, pcodec_of_minLen h rfl⟩, fun _ _ _ _ _ _ => pcodec_of_minLen h rfl⟩

/-! ## The round trip (R144) -/

/-- A slice past the first part of a concatenation is a slice of the second. -/
theorem sliceOf_append_of_length_le {l m : List Byte} {i : Nat} (j : Nat) (hi : l.length ≤ i) :
    sliceOf (l ++ m) i j = sliceOf m (i - l.length) (j - l.length) := by
  rw [sliceOf, sliceOf, List.drop_append, List.drop_of_length_le hi, List.nil_append]
  congr 1
  omega

/-- A byte past the first part of a concatenation is a byte of the second. -/
theorem byteAt_append_of_length_le {l m : List Byte} {i : Nat} (hi : l.length ≤ i) :
    byteAt (l ++ m) i = byteAt m (i - l.length) := by
  rw [byteAt, byteAt, List.getD_append_right _ _ _ _ hi]

@[simp] theorem byteAt_cons_zero (b : Byte) (l : List Byte) : byteAt (b :: l) 0 = b := rfl

@[simp] theorem byteAt_cons_succ (b : Byte) (l : List Byte) (i : Nat) : byteAt (b :: l) (i + 1) = byteAt l i := rfl

@[simp] theorem sliceOf_cons_succ (b : Byte) (l : List Byte) (i j : Nat) :
    sliceOf (b :: l) (i + 1) (j + 1) = sliceOf l i j := by
  rw [sliceOf, sliceOf, List.drop_succ_cons, Nat.add_sub_add_right]

/-- The bytes of a value whose fields have their widths are a payload of the route, neither too short nor with surplus. -/
theorem payloadBytes_fits {v : Payload} (hv : v.wf = true) :
    minLen v.route ≤ (payloadBytes v).length ∧ hasSurplus v.route (payloadBytes v).length = false := by
  rw [hasSurplus_eq_false_iff]
  cases v
  case vehicleAnnouncementMessage vin la eid gid action sync =>
    have hsync : sync.toList.length ≤ 1 := by cases sync <;> simp
    simp [Payload.wf, Payload.route, payloadBytes, minLen, maxLen] at hv ⊢
    omega
  all_goals simp [Payload.wf, Payload.route, payloadBytes, minLen, maxLen] at hv ⊢
  all_goals omega

/-- The sync status of a value stands at its place, and is there when the header declares its bytes. -/
theorem vamSync_payloadBytes {vin la eid gid : List Byte} {action : Byte} {sync : Option Byte} {h : Header}
    (hfixed : (vin ++ la ++ eid ++ gid ++ [action]).length = 32)
    (hlen : h.len.toNat = (vin ++ la ++ eid ++ gid ++ [action] ++ sync.toList).length) :
    vamSync (vin ++ la ++ eid ++ gid ++ [action] ++ sync.toList) h = sync := by
  rw [List.length_append, hfixed] at hlen
  simp only [vamSync, len_eq_ofNat_iff (n := 33) (by decide), hlen, List.getElem?_append_right hfixed.le, hfixed]
  cases sync <;> rfl

/-- Decoding the bytes of a structurally valid value gives the value: its fields are cut where they were joined. -/
theorem decodeFields_payloadBytes {v : Payload} {h : Header} (hv : structurallyValid v = true)
    (hlen : h.len.toNat = (payloadBytes v).length) : decodeFields v.route (payloadBytes v) h = .ok v := by
  cases v
  case vehicleAnnouncementMessage vin la eid gid action sync =>
    simp only [structurallyValid, Payload.wf, codesDeclared, Bool.and_eq_true, beq_iff_eq] at hv
    obtain ⟨⟨⟨⟨hvin, hla⟩, heid⟩, hgid⟩, haction, hsync⟩ := hv
    have hfixed : (vin ++ la ++ eid ++ gid ++ [action]).length = 32 := by simp [hvin, hla, heid, hgid]
    have hsyncAt := vamSync_payloadBytes hfixed hlen
    have hactionAt : byteAt (payloadBytes (.vehicleAnnouncementMessage vin la eid gid action sync)) 31 = action := by
      simp [payloadBytes, byteAt_append_of_length_le, hvin, hla, heid, hgid]
    refine decodeVam_ok_iff.2 ⟨by rwa [hactionAt], ?_, ?_⟩
    · rw [payloadBytes, hsyncAt]
      rintro b rfl
      exact hsync
    · rw [vamValue, hactionAt, payloadBytes, hsyncAt]
      simp [sliceOf_append_of_length_le, List.take_left', List.append_assoc, hvin, hla, heid, hgid]
  case diagnosticMessage first second body =>
    simp only [structurallyValid, Payload.wf, Bool.and_eq_true, beq_iff_eq] at hv
    obtain ⟨⟨hfirst, hsecond⟩, -⟩ := hv
    have hbody : (first ++ (second ++ body)).drop 4 = body := by
      rw [← List.append_assoc]
      exact List.drop_left' (by rw [List.length_append, hfirst, hsecond])
    simp [Payload.route, payloadBytes, decodeFields, hbody, sliceOf_append_of_length_le, List.take_left', hfirst, hsecond]
  all_goals
    simp only [structurallyValid, Payload.wf, codesDeclared, Bool.and_eq_true, beq_iff_eq] at hv
    simp [Payload.route, payloadBytes, decodeFields, checkCode, sliceOf_append_of_length_le, byteAt_append_of_length_le,
      List.take_left', List.take_of_length_le, hv]

/-- Settles O50: the encoder concatenates the fields, and the result fits the codec of the route. -/
theorem payloadRoundTrip : Obligations.PayloadRoundTrip := by
  intro v h hv hlen
  rw [penc_of_encodable (encodable_of_structurallyValid hv)] at hlen ⊢
  obtain ⟨hwf, -⟩ := (Bool.and_eq_true _ _).mp hv
  obtain ⟨hmin, hfit⟩ := payloadBytes_fits hwf
  rw [pcodec_of_fits h hmin hfit, decodeFields_payloadBytes hv hlen]

end Sys2Proof.Machine
end
